-- ==== Sys2Proof/Word.lean ====
section
/-! DEFINITION. The widths the spec gives its quantities (00_scope.md R9: all unsigned, bit 0 least significant). -/
namespace Sys2Proof

/-- One byte of `IMG` or `GRID` (20_memory.md R51, R52). -/
abbrev Byte := BitVec 8

/-- One grid cell (10_state.md R25). -/
abbrev Nibble := BitVec 4

/-- A robot coordinate, a word of the robot record, the length of the image (10_state.md R20, R24). -/
abbrev Word := BitVec 32

end Sys2Proof
end

