-- ==== Sys2Proof/Config.lean ====
section
/-! DEFINITION. What an implementation fixes (00_scope.md R5, R6) and the values the spec leaves open (R7, R179).
The rest of this record stands beside what reads it: `Config.byteOrder`, `Config.tagLow`, `Config.condLow`,
`Config.invLow`, `Config.tagNumber` and `Config.condNumber` in Decode.lean, `Config.statusNumber` and
`Config.evenColumnLow` in Machine/Ops.lean. `DEPTH_BITS` is no field: the depth is a natural number, as D24 allows
(log entry 9). `IMAGE_LEN`, which every load sets, is the state's `imageLen`. -/
namespace Sys2Proof

namespace Config

/-- `N`, the side of the grid. The source's reference value (00_scope.md R5, decision D29; log entry 10: UNVERIFIED, unsafe). -/
def gridSide : Nat := 20

/-- `MAX_FLAGS`, the largest flag count of a cell (00_scope.md R5, D29; log entry 10: UNVERIFIED, unsafe). -/
def maxFlags : Nat := 8

/-- `WALL`, the all-ones nibble (00_scope.md R5). -/
def wall : Nibble := 15

/-- `WALL_BYTE`, a wall in the import and export arrays (00_scope.md R5). -/
def wallByte : Byte := 255

/-- `FAST_DEPTH`: an opening made below this depth cannot fail (00_scope.md R5, D29; log entry 10: UNVERIFIED, unsafe). -/
def fastDepth : Nat := 512

/-- `N * N`, the number of cells and the length of the import and export arrays (44_host_operations.md R173). -/
def cellCount : Nat := gridSide * gridSide

/-- `N * N / 2`, the number of bytes of `GRID` (20_memory.md R52). -/
def gridBytes : Nat := cellCount / 2

/-! ## The spec's own choices (00_scope.md R6) -/

/-- `PC_BITS` = 32, as the type of that width: the program counter and branch targets (00_scope.md R6, D2; log entry
11). -/
abbrev Pc := BitVec 32

/-- `COUNT_BITS` = 16, as the type of that width: the count of a REPEAT and `remaining` (00_scope.md R6, D24; log entry
11). -/
abbrev Count := BitVec 16

/-- The largest `IMAGE_LEN` (00_scope.md R6, D2, D17; log entry 11). -/
def maxImageLen : Nat := 2 ^ 32 - 1

/-- The byte orders a multi-byte operand can have. -/
inductive ByteOrder where
  | little
  | big
  deriving DecidableEq, Repr

/-! ## Constraints and free values -/

/-- The constraints 00_scope.md R5 puts on the constants. -/
def Valid : Prop :=
  gridSide % 2 = 0 ∧ 2 ≤ gridSide ∧ gridSide ≤ 65534 ∧ 1 ≤ maxFlags ∧ maxFlags ≤ 14 ∧ 1 ≤ fastDepth

/-- FREE VALUE (log entry 6, safe). The draw `grow_ok` of 00_scope.md R7: whether the machine's n-th draw, if it is
made by a frame opening past `FAST_DEPTH`, lets the stacks grow. It has no body: both answers are admitted. -/
opaque growOk : Nat → Bool

/-- FREE VALUE (log entry 7, safe). What the machine's n-th draw gives a `HostReadStatus` made before the first
accepted `HostRun` (44_host_operations.md R179: an arbitrary 8-bit value). -/
opaque unwrittenStatus : Nat → Byte

end Config

/-- A program counter, a branch target, a loop top, a return offset (10_state.md R33, R34). -/
abbrev Pc := Config.Pc

/-- The count operand of REPEAT and the count of a repeat frame (10_state.md R35, R36). -/
abbrev Count := Config.Count

end Sys2Proof
end

