-- ==== Sys2Proof/Syntax.lean ====
section
/-! DEFINITION. The nine instructions of spec/opcode_table.json as terms (30_encoding.md R80, R87), and the names
their encodings are made of. -/
namespace Sys2Proof

/-- The eight condition codes (30_encoding.md R88). -/
inductive Cond where
  | none
  | isWall
  | isFlag
  | isHome
  | isNorth
  | isWest
  | isSouth
  | isEast
  deriving DecidableEq, Repr

/-- The nine opcodes the tag field of a head byte names (30_encoding.md R87). -/
inductive Tag where
  | step
  | left
  | pickUp
  | place
  | branch
  | branchLinked
  | retn
  | stop
  | repeatLoop
  deriving DecidableEq, Repr

/-- The three formats (30_encoding.md R80 to R83). -/
inductive Format where
  | h
  | b
  | r
  deriving DecidableEq, Repr

/-- One instruction (30_encoding.md R98). REPEAT is `repeatLoop`, its mnemonic being a word of Lean's own. -/
inductive Instr where
  /-- STEP, 41_robot_primitives.md R122. -/
  | step
  /-- LEFT, 41_robot_primitives.md R123. -/
  | left
  /-- PICK_UP, 41_robot_primitives.md R124. -/
  | pickUp
  /-- PLACE, 41_robot_primitives.md R125. -/
  | place
  /-- BRANCH, 42_control_transfer.md R143. -/
  | branch (cond : Cond) (inv : Bool) (target : Pc)
  /-- BRANCH_LINKED, 42_control_transfer.md R146. -/
  | branchLinked (target : Pc)
  /-- RETN, 42_control_transfer.md R149. -/
  | retn
  /-- STOP, 42_control_transfer.md R151. -/
  | stop
  /-- REPEAT, 43_repeat.md R162. -/
  | repeatLoop (top : Pc) (count : Count)
  deriving DecidableEq, Repr

end Sys2Proof
end

