-- ==== Sys2Proof/WellFormed.lean ====
section
/-! DEFINITION. Which instruction terms the spec lets an image hold. The terms' types already exclude every reserved
field; the one check left is the reserved count of REPEAT. -/
namespace Sys2Proof

/-- 30_encoding.md R86, 43_repeat.md R164: the count 0 of a REPEAT is reserved. It decodes all the same (R98), and
executing it on a first visit faults. -/
def Instr.wellFormed : Instr → Bool
  | .step | .left | .pickUp | .place | .branch .. | .branchLinked _ | .retn | .stop => true
  | .repeatLoop _ count => count != 0

end Sys2Proof
end

