-- ==== Sys2Proof/Decode.lean ====
section
/-! DEFINITION. The decoder of 30_encoding.md R98, total on any bytes and rejecting by name, and the encoder, both
written from the tables of R81 to R88. -/
namespace Sys2Proof

/-! ## The layout of an instruction (00_scope.md R6) -/

/-- `BYTECODE_ENDIAN`, 00_scope.md R6 (decision D3; log entry 11). -/
def Config.byteOrder : Config.ByteOrder := .little

/-- The lowest bit of the tag field, 00_scope.md R6 (decision D4; log entry 11). -/
def Config.tagLow : Nat := 0

/-- The lowest bit of the condition field, 00_scope.md R6 (D4). -/
def Config.condLow : Nat := 4

/-- The invert bit, 00_scope.md R6 (D4). -/
def Config.invLow : Nat := 7

/-! ## Tables -/

/-- `TAG_*`, 30_encoding.md R87 (decision D5; log entry 11). -/
def Config.tagNumber : Tag → BitVec 4
  | .step => 0
  | .left => 1
  | .pickUp => 2
  | .place => 3
  | .branch => 4
  | .branchLinked => 5
  | .retn => 6
  | .stop => 7
  | .repeatLoop => 8

/-- `CC_*`, 30_encoding.md R88 (decision D6; log entry 11). -/
def Config.condNumber : Cond → BitVec 3
  | .none => 0
  | .isWall => 1
  | .isFlag => 2
  | .isHome => 3
  | .isNorth => 4
  | .isWest => 5
  | .isSouth => 6
  | .isEast => 7

/-- The nine opcodes, in the order of 30_encoding.md R87. -/
def allTags : List Tag :=
  [.step, .left, .pickUp, .place, .branch, .branchLinked, .retn, .stop, .repeatLoop]

/-- The eight condition codes, in the order of 30_encoding.md R88. -/
def allConds : List Cond :=
  [.none, .isWall, .isFlag, .isHome, .isNorth, .isWest, .isSouth, .isEast]

/-- The opcode a tag field names; none for the tags 9 to 15 (30_encoding.md R89). -/
def tagOf (c : BitVec 4) : Option Tag :=
  allTags.find? fun t => Config.tagNumber t == c

/-- The condition a condition field names: every one of its eight values names one (30_encoding.md R88). -/
def condOf (c : BitVec 3) : Cond :=
  (allConds.find? fun k => Config.condNumber k == c).getD .none

/-- 30_encoding.md R87, column Format. -/
def Tag.format : Tag → Format
  | .step | .left | .pickUp | .place | .retn | .stop => .h
  | .branch | .branchLinked => .b
  | .repeatLoop => .r

/-- 30_encoding.md R80: 1, 5 or 7 bytes. -/
def Format.length : Format → Nat
  | .h => 1
  | .b => 5
  | .r => 7

/-- 30_encoding.md R94: the length is a function of the tag alone. -/
def Tag.length (t : Tag) : Nat := t.format.length

/-- The opcode of an instruction term. -/
def Instr.tag : Instr → Tag
  | .step => .step
  | .left => .left
  | .pickUp => .pickUp
  | .place => .place
  | .branch .. => .branch
  | .branchLinked _ => .branchLinked
  | .retn => .retn
  | .stop => .stop
  | .repeatLoop .. => .repeatLoop

/-- The number of bytes an instruction takes (30_encoding.md R80). -/
def Instr.length (i : Instr) : Nat := i.tag.length

/-! ## The head byte and the operands -/

/-- 30_encoding.md R84: `tag = head[3:0]`. -/
def headTag (head : Byte) : BitVec 4 := head.extractLsb' Config.tagLow 4

/-- 30_encoding.md R84: `cond = head[6:4]`. -/
def headCond (head : Byte) : BitVec 3 := head.extractLsb' Config.condLow 3

/-- 30_encoding.md R84: `inv = head[7]`. -/
def headInv (head : Byte) : BitVec 1 := head.extractLsb' Config.invLow 1

/-- The bytes of an operand, the least significant first, in the order memory holds them; and the same the other way
about, reversing being its own inverse (30_encoding.md R85, R86). -/
def inByteOrder (bytes : List Byte) : List Byte :=
  match Config.byteOrder with
  | .little => bytes
  | .big => bytes.reverse

/-- 30_encoding.md R85, `LE32`, on bytes in memory order. -/
def joinTarget (b0 b1 b2 b3 : Byte) : Pc :=
  match Config.byteOrder with
  | .little => b3 ++ b2 ++ b1 ++ b0
  | .big => b0 ++ b1 ++ b2 ++ b3

/-- 30_encoding.md R86, `LE16`, on bytes in memory order. -/
def joinCount (b0 b1 : Byte) : Count :=
  match Config.byteOrder with
  | .little => b1 ++ b0
  | .big => b0 ++ b1

/-- `MemRead(IMG, fa+1, 4)` of 20_memory.md R59, on the bytes after the head. -/
def readTarget : List Byte → Option (Pc × List Byte)
  | b0 :: b1 :: b2 :: b3 :: rest => some (joinTarget b0 b1 b2 b3, rest)
  | _ => none

/-- `MemRead(IMG, fa+5, 2)` of 20_memory.md R59, on the bytes after the loop top. -/
def readCount : List Byte → Option (Count × List Byte)
  | b0 :: b1 :: rest => some (joinCount b0 b1, rest)
  | _ => none

/-! ## The decoder -/

/-- Why a byte sequence decodes to no instruction (30_encoding.md R98). -/
inductive DecodeError where
  /-- The sequence ends before the instruction does: `F_FETCH_RANGE`. -/
  | fetchRange
  /-- A tag from 9 to 15: `F_ILLEGAL_TAG` (R89). -/
  | illegalTag
  /-- A condition or an invert bit on an opcode other than BRANCH: `F_RESERVED_FIELD` (R90, R91). -/
  | reservedField
  deriving DecidableEq, Repr

/-- The last lines of 30_encoding.md R98: the term an opcode and its operand bytes give, and the bytes left over. -/
def assemble (tag : Tag) (cond : Cond) (inv : Bool) (rest : List Byte) : Option (Instr × List Byte) :=
  match tag with
  | .step => some (.step, rest)
  | .left => some (.left, rest)
  | .pickUp => some (.pickUp, rest)
  | .place => some (.place, rest)
  | .branch => (readTarget rest).map fun p => (.branch cond inv p.1, p.2)
  | .branchLinked => (readTarget rest).map fun p => (.branchLinked p.1, p.2)
  | .retn => some (.retn, rest)
  | .stop => some (.stop, rest)
  | .repeatLoop =>
    (readTarget rest).bind fun p => (readCount p.2).map fun q => (.repeatLoop p.1 q.1, q.2)

/-- 30_encoding.md R98 on the bytes of the image from the fetch address on, its checks in the order the rule gives
them: a byte there, a legal tag, all the operand bytes there, no reserved field. -/
def decode : List Byte → Except DecodeError (Instr × List Byte)
  | [] => .error .fetchRange
  | head :: rest =>
    match tagOf (headTag head) with
    | none => .error .illegalTag
    | some tag =>
      if rest.length + 1 < tag.length then .error .fetchRange
      else if tag ≠ .branch ∧ (headCond head ≠ 0 ∨ headInv head ≠ 0) then .error .reservedField
      else
        match assemble tag (condOf (headCond head)) (headInv head == 1) rest with
        | some p => .ok p
        | none => .error .fetchRange

/-- The longest instruction, REPEAT, is 7 bytes (30_encoding.md R80). -/
def maxLength : Nat := 7

/-- The bytes of an instruction given as one number whose lowest byte is the head byte: bits from `nbits` on are 0,
up to the longest instruction. -/
def tableBytes (nbits w : Nat) : List Byte :=
  (List.range maxLength).map fun k => BitVec.ofNat 8 (w % 2 ^ nbits / 256 ^ k)

/-- What the decoder reads from such a number. -/
def decodeTableWord (nbits w : Nat) : Option Instr :=
  match decode (tableBytes nbits w) with
  | .ok p => some p.1
  | .error _ => none

/-! ## The encoder -/

/-- 30_encoding.md R84: tag, condition and invert bit, each in its field. -/
def encodeHead (tag : Tag) (cond : Cond) (inv : Bool) : Byte :=
  ((Config.tagNumber tag).setWidth 8 <<< Config.tagLow) ||| ((Config.condNumber cond).setWidth 8 <<< Config.condLow) |||
    ((BitVec.ofBool inv).setWidth 8 <<< Config.invLow)

/-- The head byte of every opcode but BRANCH: unused fields are zero (30_encoding.md R81, R90, R91). -/
def plainHead (tag : Tag) : Byte := encodeHead tag .none false

/-- The four bytes of a target or a loop top, lowest address first (30_encoding.md R82, R83). -/
def targetBytes (w : Pc) : List Byte :=
  inByteOrder [w.extractLsb' 0 8, w.extractLsb' 8 8, w.extractLsb' 16 8, w.extractLsb' 24 8]

/-- The two bytes of a count, lowest address first (30_encoding.md R83). -/
def countBytes (c : Count) : List Byte :=
  inByteOrder [c.extractLsb' 0 8, c.extractLsb' 8 8]

/-- The bytes of an instruction in memory order (30_encoding.md R81 to R83). -/
def encode : Instr → List Byte
  | .step => [plainHead .step]
  | .left => [plainHead .left]
  | .pickUp => [plainHead .pickUp]
  | .place => [plainHead .place]
  | .branch cond inv target => encodeHead .branch cond inv :: targetBytes target
  | .branchLinked target => plainHead .branchLinked :: targetBytes target
  | .retn => [plainHead .retn]
  | .stop => [plainHead .stop]
  | .repeatLoop top count => plainHead .repeatLoop :: (targetBytes top ++ countBytes count)

end Sys2Proof
end

