-- ==== Sys2Proof/Machine/State.lean ====
section
/-! DEFINITION. Everything the spec gives the block to hold (10_state.md), as plain data, the reasons a step can stop,
and the state after reset (70_reset_and_hazards.md R231). INVENTORY.md, '## State', lists the fields with their rules. -/
namespace Sys2Proof.Machine

/-- A byte-addressed space: (address, byte) pairs, addresses strictly rising, no entry equal to what an unlisted
address reads as (`Memory.wf`, Ops.lean). -/
abbrev Memory := List Host.Cell

/-- A repeat frame (10_state.md R35, R36): the offset of the REPEAT that opened it, and the iterations left. -/
structure Frame where
  origin : Pc
  remaining : Count
  deriving DecidableEq, Repr

/-- The closed list of fault causes of 60_exceptions.md R204, recorded in the register `fault`. -/
inductive Cause where
  /-- `F_FETCH_RANGE`: the fetch address, or a byte of the instruction, at or past `IMAGE_LEN` (40_fetch_dispatch.md R103, R104). -/
  | fetchRange
  /-- `F_ILLEGAL_TAG`: a head byte with tag 9 to 15 (30_encoding.md R89). -/
  | illegalTag
  /-- `F_RESERVED_FIELD`: a condition or invert bit on an opcode other than BRANCH (30_encoding.md R90, R91). -/
  | reservedField
  /-- `F_REPEAT_ZERO`: a first visit of a REPEAT with count 0 (43_repeat.md R164). -/
  | repeatZero
  /-- `F_CELL_NOT_FLAGCOUNT`: PICK_UP or PLACE on a cell above `MAX_FLAGS` (41_robot_primitives.md R124, R125). -/
  | cellNotFlagcount
  /-- `F_GRID_RANGE`: `get` or `set` outside the grid (20_memory.md R58). -/
  | gridRange
  /-- `X_BAD_IMAGE`: a refused `HostLoadImage` (44_host_operations.md R171). -/
  | badImage
  /-- `X_BAD_WORLD`: a refused `HostLoadWorld` (44_host_operations.md R173). -/
  | badWorld
  /-- `X_WORLD_NOT_LOADED`: a refused `HostReadWorld` or `HostReadRobot` (44_host_operations.md R175, R181). -/
  | worldNotLoaded
  deriving DecidableEq, Repr

/-- The twelve status codes (44_host_operations.md R184). The block itself produces all but the four the rule marks
"software outside the block only". -/
inductive Status where
  | success
  | inProgress
  | unknownError
  | notInitialized
  | fileNotFound
  | compilationError
  | stateNotValid
  | symbolNotFound
  | stepOutOfBounds
  | pickupZeroFlags
  | placeMaxFlags
  | stopEncountered
  deriving DecidableEq, Repr

/-- The five words of the robot record, in the order of the import record (00_scope.md R10, 44_host_operations.md R173). -/
structure RobotRecord where
  px : Word
  py : Word
  d : Word
  hx : Word
  hy : Word
  deriving DecidableEq, Repr

/-- The import and export array: exactly `N * N` bytes (44_host_operations.md R173, R175). -/
abbrev CellArray := Vector Byte Config.cellCount

/-- One move of the host (44_host_operations.md R170). -/
inductive HostOp where
  /-- `init`, 70_reset_and_hazards.md R230. -/
  | reset
  /-- `HostLoadImage`, 44_host_operations.md R171. -/
  | loadImage (bytes : List Byte)
  /-- `HostLoadWorld`, 44_host_operations.md R173. -/
  | loadWorld (cells : CellArray) (robot : RobotRecord)
  /-- `HostRun`, 44_host_operations.md R176. -/
  | run (entry : Pc)
  /-- `HostShortCircuit`, 44_host_operations.md R178. -/
  | shortCircuit
  /-- `HostReadStatus`, 44_host_operations.md R179. -/
  | readStatus
  /-- `HostReadWorld`, 44_host_operations.md R175. -/
  | readWorld
  /-- `HostReadRobot`, 44_host_operations.md R181. -/
  | readRobot
  deriving DecidableEq, Repr

/-- What a host operation gives back (44_host_operations.md R180, column "Block gives back"). -/
inductive HostReply where
  | status (code : Byte)
  | world (cells : CellArray)
  | robot (record : RobotRecord)
  deriving DecidableEq, Repr

/-- Which agent moves (10_state.md R45). -/
inductive Turn where
  | interpreter
  | host (op : HostOp)
  deriving DecidableEq, Repr

/-- The state of the block. The last four fields are the model's own (log entries 2, 6, 7, 13). -/
structure State where
  /-- 10_state.md R21. -/
  px : Word
  py : Word
  /-- 10_state.md R22: 0 North, 1 West, 2 South, 3 East. -/
  d : BitVec 2
  /-- 10_state.md R23. -/
  hx : Word
  hy : Word
  /-- `GRID`, 20_memory.md R52. -/
  grid : Memory
  /-- `IMG`, 20_memory.md R51. -/
  image : Memory
  imageLen : Word
  /-- 10_state.md R27. -/
  bytecodeValid : Bool
  worldValid : Bool
  /-- 10_state.md R28. -/
  status : Byte
  /-- 10_state.md R30. -/
  shortMask : BitVec 1
  /-- 10_state.md R32. -/
  busy : Bool
  /-- 10_state.md R33. -/
  pc : Pc
  /-- 10_state.md R34, the top of the stack first. -/
  callStack : List Pc
  /-- 10_state.md R35, the top of the stack first. -/
  repeatStack : List Frame
  /-- 10_state.md R36. -/
  curRepeat : Option Frame
  /-- 10_state.md R37; a natural number, as decision D24 allows (log entry 9: DESIGN CHOICE, safe). -/
  depth : Nat
  /-- 10_state.md R39. -/
  fault : Option Cause
  /-- MODEL'S OWN: whether `status` has been written since reset (44_host_operations.md R179; log entry 7). -/
  statusWritten : Bool
  /-- MODEL'S OWN: how many free values have been drawn (log entry 6). No statement rests on its value. -/
  draws : Nat
  /-- MODEL'S OWN: the order in which the agents move; when it is empty the interpreter moves (log entry 2). -/
  agenda : List Turn
  /-- MODEL'S OWN: what the last host operation that returns a value gave back (log entry 13). -/
  reply : Option HostReply
  deriving DecidableEq, Repr

/-- Why a step has no next state. The instructions raise none of these: `raise Fault(cause)` of
40_fetch_dispatch.md R109 is a next state, in which the register `fault` holds the cause (log entry 1). -/
inductive Fault where
  /-- Raised by `interpreterTurn` when it is the interpreter's turn and no run is in progress (40_fetch_dispatch.md
  R101: no step). Safe: the block keeps its state and waits for the host (60_exceptions.md R222). -/
  | idle
  /-- Raised by `interpreterTurn` when the register `fault` holds a cause: the block has no interpreter step and never
  will (40_fetch_dispatch.md R101, 60_exceptions.md R205). Safe: nothing can be proved of what follows. -/
  | faulted (cause : Cause)
  deriving DecidableEq, Repr

/-- Why an instruction has no meaning. No arm of `exec` uses it: every instruction is modelled. -/
inductive Refusal where
  /-- Raised by an arm of `exec` whose instruction has no meaning yet. Safe. -/
  | notModelled (mnemonic : String)
  deriving DecidableEq, Repr

/-- 70_reset_and_hazards.md R231. Stated: `bytecodeValid`, `worldValid`, `shortMask`, `busy`, `fault`. Every other
field is a value the model names where the spec says "unspecified" (log entries 4 and 5: DESIGN CHOICE, unsafe). -/
def State.reset : State where
  px := 0
  py := 0
  d := 0
  hx := 0
  hy := 0
  grid := []
  image := []
  imageLen := 0
  bytecodeValid := false
  worldValid := false
  status := 0
  shortMask := 1
  busy := false
  pc := 0
  callStack := []
  repeatStack := []
  curRepeat := none
  depth := 0
  fault := none
  statusWritten := false
  draws := 0
  agenda := []
  reply := none

end Sys2Proof.Machine
end

