-- ==== Sys2Proof/Machine/Ops.lean ====
section
/-! DEFINITION. The named operations over memory, the grid and the execution state, and the block's whole exception
mechanism: ending a run (`terminate`, 40_fetch_dispatch.md R108) and recording a model fault (`raiseFault`, R109).
The spec has no trap entry and no return from trap (60_exceptions.md R214, R215). -/
namespace Sys2Proof

/-! ## The configuration these operations read (00_scope.md R6) -/

/-- `ST_*`, 44_host_operations.md R184 (decision D7; log entry 11). -/
def Config.statusNumber : Machine.Status → Byte
  | .success => 0
  | .inProgress => 1
  | .unknownError => 2
  | .notInitialized => 3
  | .fileNotFound => 4
  | .compilationError => 5
  | .stateNotValid => 6
  | .symbolNotFound => 7
  | .stepOutOfBounds => 8
  | .pickupZeroFlags => 9
  | .placeMaxFlags => 10
  | .stopEncountered => 11

/-- `NIBBLE_PARITY`, 00_scope.md R6: whether the cells of even columns take the low nibble (decision D8; log entry 11). -/
def Config.evenColumnLow : Bool := true

namespace Machine

/-! ## Memory -/

/-- What an address no entry lists reads as (log entry 5: DESIGN CHOICE, unsafe; the spec leaves the contents of both
spaces unspecified until they are loaded, 70_reset_and_hazards.md R231). -/
def Memory.unlisted : Byte := 0

/-- The canonical form: addresses strictly rising, no entry that says what an unlisted address says. -/
abbrev Memory.wf (m : Memory) : Prop :=
  (m.map Prod.fst).Pairwise (· < ·) ∧ ∀ c ∈ m, c.2 ≠ Memory.unlisted

/-- `MemRead(S, a, 1)` of 00_scope.md R10. -/
def Memory.read : Memory → Nat → Byte
  | [], _ => Memory.unlisted
  | (k, b) :: m, a => if a = k then b else Memory.read m a

/-- An entry put before a memory whose addresses all lie above it, left out where an unlisted address says the same. -/
def Memory.cons (a : Nat) (v : Byte) (m : Memory) : Memory :=
  if v = Memory.unlisted then m else (a, v) :: m

/-- `MemWrite(S, a, 1, [v])` of 00_scope.md R10, keeping the canonical form. -/
def Memory.write : Memory → Nat → Byte → Memory
  | [], a, v => Memory.cons a v []
  | (k, b) :: m, a, v =>
    if a < k then Memory.cons a v ((k, b) :: m)
    else if a = k then Memory.cons a v m
    else (k, b) :: Memory.write m a v

/-- The bytes of a list at the addresses from `a` on, in a memory that holds nothing else. -/
def Memory.ofBytesFrom (a : Nat) : List Byte → Memory
  | [] => []
  | b :: bytes => Memory.cons a b (Memory.ofBytesFrom (a + 1) bytes)

/-- A fresh space holding exactly the bytes of a list (44_host_operations.md R171: a load replaces the image completely). -/
def Memory.ofBytes (bytes : List Byte) : Memory := Memory.ofBytesFrom 0 bytes

/-! ## The grid (20_memory.md R54 to R58) -/

/-- 20_memory.md R54: the byte address of a cell. -/
def cellAddress (x y : Nat) : Nat := (x + y * Config.gridSide) / 2

/-- 20_memory.md R55: whether a cell of column x takes bits [3:0] of its byte, and not bits [7:4]. -/
def lowHalf (x : Nat) : Bool := decide (x % 2 = 0) == Config.evenColumnLow

/-- 20_memory.md R55: the nibble of column x. -/
def nibbleOf (x : Nat) (b : Byte) : Nibble :=
  if lowHalf x then b.extractLsb' 0 4 else b.extractLsb' 4 4

/-- 20_memory.md R57: a byte with the nibble of column x replaced. -/
def withNibble (x : Nat) (b : Byte) (v : Nibble) : Byte :=
  if lowHalf x then b.extractLsb' 4 4 ++ v else v ++ b.extractLsb' 0 4

/-- The body of `get`, 20_memory.md R56, for a cell inside the grid. -/
def cellValue (g : Memory) (x y : Nat) : Nibble := nibbleOf x (g.read (cellAddress x y))

/-- The body of `set`, 20_memory.md R57, for a cell inside the grid. -/
def setCellValue (g : Memory) (x y : Nat) (v : Nibble) : Memory :=
  g.write (cellAddress x y) (withNibble x (g.read (cellAddress x y)) v)

/-- 20_memory.md R54: the coordinates of a cell of the grid. -/
abbrev InGrid (x y : Nat) : Prop := x < Config.gridSide ∧ y < Config.gridSide

/-- `get(x, y)`, total: out of range it raises `F_GRID_RANGE` (20_memory.md R56, R58). -/
def gridGet (g : Memory) (x y : Nat) : Except Cause Nibble :=
  if InGrid x y then .ok (cellValue g x y) else .error .gridRange

/-- `set(x, y, v)`, total: out of range it raises `F_GRID_RANGE` (20_memory.md R57, R58). -/
def gridSet (g : Memory) (x y : Nat) (v : Nibble) : Except Cause Memory :=
  if InGrid x y then .ok (setCellValue g x y v) else .error .gridRange

/-! ## Status codes -/

/-- 10_state.md R29: the six statuses that end a run. -/
def terminalStatuses : List Status :=
  [.success, .unknownError, .stepOutOfBounds, .pickupZeroFlags, .placeMaxFlags, .stopEncountered]

/-! ## The end of a run, and faults -/

/-- `raise Terminate(code)`, 40_fetch_dispatch.md R108: `status` and `busy` are written, nothing else. The execution
state is left as it was, which is one of the values "unspecified" allows (10_state.md R38; log entry 8: DESIGN CHOICE,
unsafe). -/
def terminate (code : Status) (s : State) : State :=
  { s with status := Config.statusNumber code, busy := false }

/-- `raise Fault(cause)`, 40_fetch_dispatch.md R109, and `refuse(reason)`, 44_host_operations.md R170: `fault` is
written, nothing else. -/
def raiseFault (cause : Cause) (s : State) : State := { s with fault := some cause }

/-! ## The program counter (40_fetch_dispatch.md R111) -/

/-- `pc <- pc + n`. The addition cannot pass `PC_BITS` for an instruction inside the image (R111; log entry 14). -/
def advance (n : Nat) (s : State) : State := { s with pc := s.pc + BitVec.ofNat _ n }

/-- `pc <- target`. -/
def jump (target : Pc) (s : State) : State := { s with pc := target }

/-! ## The robot and the grid -/

/-- `px <- x; py <- y`, 41_robot_primitives.md R122. -/
def moveRobot (x y : Word) (s : State) : State := { s with px := x, py := y }

/-- `turn_left()`, 41_robot_primitives.md R121: on two bits the sum is the sum modulo 4. -/
def turnLeft (s : State) : State := { s with d := s.d + 1 }

/-- The grid replaced, as `set` leaves it. -/
def withGrid (g : Memory) (s : State) : State := { s with grid := g }

/-! ## Frames (42_control_transfer.md R145, 43_repeat.md R162) -/

/-- The next draw made. -/
def spendDraw (s : State) : State := { s with draws := s.draws + 1 }

/-- `open_frame()`, 42_control_transfer.md R145, followed by what the caller does once the frame may be opened. An
opening below `FAST_DEPTH` cannot fail; from there on the free value `Config.growOk` says whether it does (log entry 6). -/
def openFrame (andThen : State → State) (s : State) : State :=
  if s.depth < Config.fastDepth then andThen s
  else if Config.growOk s.draws then andThen (spendDraw s)
  else terminate .unknownError (spendDraw s)

/-- `push(call_stack, v); depth <- depth + 1`, 42_control_transfer.md R146. -/
def pushCall (ret : Pc) (s : State) : State :=
  { s with callStack := ret :: s.callStack, depth := s.depth + 1 }

/-- `pop(call_stack); depth <- depth - 1`, 42_control_transfer.md R149, the popped entry left out. `depth` cannot be 0
here (10_state.md R41; log entry 14). -/
def popCall (s : State) : State :=
  { s with callStack := s.callStack.tail, depth := s.depth - 1 }

/-- The first lines of a first visit, 43_repeat.md R162: the outer loop's frame, if there is one, is pushed and the new
frame becomes the current one. -/
def pushRepeat (f : Frame) (s : State) : State :=
  { s with repeatStack := s.curRepeat.toList ++ s.repeatStack, curRepeat := some f, depth := s.depth + 1 }

/-- A finishing visit, 43_repeat.md R162: the outer loop's frame comes back, or there is none. -/
def popRepeat (s : State) : State :=
  { s with curRepeat := s.repeatStack.head?, repeatStack := s.repeatStack.tail, depth := s.depth - 1 }

/-- `cur_repeat <- some(f)`, for the frame of a loop that goes round again (43_repeat.md R162). -/
def setRepeat (f : Frame) (s : State) : State := { s with curRepeat := some f }

end Machine

end Sys2Proof
end

