-- ==== Sys2Proof/Machine/HostOps.lean ====
section
/-! DEFINITION. The host's moves (44_host_operations.md; reset, 70_reset_and_hazards.md R230). -/
namespace Sys2Proof.Machine

/-- What an operation gives back to the host (log entry 13). -/
def giveBack (r : HostReply) (s : State) : State := { s with reply := some r }

/-- 44_host_operations.md R170: the operations that are always enabled, and the others only while the block is idle and
unfaulted. -/
def hostEnabled (op : HostOp) (s : State) : Bool :=
  match op with
  | .reset | .shortCircuit | .readStatus => true
  | .loadImage _ | .loadWorld .. | .run _ | .readWorld | .readRobot => !s.busy && s.fault.isNone

/-- Reset, 70_reset_and_hazards.md R230, R231. What the host does next and the free values still to come are no part of
the block, so they stay. -/
def hostReset (s : State) : State := { State.reset with agenda := s.agenda, draws := s.draws }

/-! ## Loading -/

/-- 44_host_operations.md R171: the image is not empty, not over-long, and begins with the head byte of RETN. -/
def imageAccepted (bytes : List Byte) : Bool :=
  bytes.length ≤ Config.maxImageLen && bytes.head? == some (plainHead .retn)

/-- What an accepted image sets, 44_host_operations.md R171: every byte of the old one is gone. -/
def installImage (bytes : List Byte) (s : State) : State :=
  { s with imageLen := BitVec.ofNat 32 bytes.length, image := Memory.ofBytes bytes, bytecodeValid := true }

/-- `HostLoadImage(bytes)`, 44_host_operations.md R171. -/
def hostLoadImage (bytes : List Byte) (s : State) : State :=
  if imageAccepted bytes then installImage bytes s else raiseFault .badImage s

/-- 44_host_operations.md R173: the bytes an import array may hold. -/
def cellByteAccepted (b : Byte) : Bool := b.toNat ≤ Config.maxFlags || b == Config.wallByte

/-- `import_cell`, 44_host_operations.md R174. -/
def importCell (b : Byte) : Nibble := if b = Config.wallByte then Config.wall else b.setWidth 4

/-- `export_cell`, 44_host_operations.md R174. -/
def exportCell (v : Nibble) : Byte := if v = Config.wall then Config.wallByte else v.setWidth 8

/-- 44_host_operations.md R173: what a record must satisfy; the home words are not constrained. -/
def robotAccepted (r : RobotRecord) : Bool :=
  r.px.toNat < Config.gridSide && r.py.toNat < Config.gridSide && r.d.toNat ≤ 3

/-- The loop of 44_host_operations.md R173: element `x + y*N` of the array is written to cell (x, y), row by row. -/
def importCells (cells : CellArray) (g : Memory) : Memory :=
  cells.toList.zipIdx.foldl
    (fun g p => setCellValue g (p.2 % Config.gridSide) (p.2 / Config.gridSide) (importCell p.1)) g

/-- What an accepted world sets, 44_host_operations.md R173. -/
def installWorld (cells : CellArray) (r : RobotRecord) (s : State) : State :=
  { s with
    grid := importCells cells s.grid
    px := r.px
    py := r.py
    d := r.d.setWidth 2
    hx := r.hx
    hy := r.hy
    worldValid := true }

/-- `HostLoadWorld(cells, robot)`, 44_host_operations.md R173. -/
def hostLoadWorld (cells : CellArray) (r : RobotRecord) (s : State) : State :=
  if cells.toList.all cellByteAccepted && robotAccepted r then installWorld cells r s else raiseFault .badWorld s

/-! ## Reading back -/

/-- The loop of 44_host_operations.md R175: element `x + y*N` is cell (x, y), a wall as 255. -/
def exportCells (g : Memory) : CellArray :=
  ⟨((List.range Config.cellCount).map fun i =>
      exportCell (cellValue g (i % Config.gridSide) (i / Config.gridSide))).toArray, by simp⟩

/-- `HostReadWorld()`, 44_host_operations.md R175. -/
def hostReadWorld (s : State) : State :=
  if s.worldValid then giveBack (.world (exportCells s.grid)) s else raiseFault .worldNotLoaded s

/-- The five words of `HostReadRobot`, `d` extended with zeros (44_host_operations.md R181). -/
def robotRecord (s : State) : RobotRecord := ⟨s.px, s.py, s.d.setWidth 32, s.hx, s.hy⟩

/-- `HostReadRobot()`, 44_host_operations.md R181. -/
def hostReadRobot (s : State) : State :=
  if s.worldValid then giveBack (.robot (robotRecord s)) s else raiseFault .worldNotLoaded s

/-- `HostReadStatus()`, 44_host_operations.md R179: the register, or, before the first accepted run, a free value (log
entry 7). -/
def hostReadStatus (s : State) : State :=
  if s.statusWritten then giveBack (.status s.status) s
  else giveBack (.status (Config.unwrittenStatus s.draws)) (spendDraw s)

/-! ## Running and interrupting -/

/-- `start_run(entry_pc)`, 44_host_operations.md R177. -/
def startRun (entry : Pc) (s : State) : State :=
  { s with
    shortMask := 1
    status := Config.statusNumber .inProgress
    statusWritten := true
    pc := entry
    callStack := []
    repeatStack := []
    curRepeat := none
    depth := 0
    busy := true }

/-- `HostRun(entry_pc)`, 44_host_operations.md R176, R183: STATE_NOT_VALID is a return value and nothing else. -/
def hostRun (entry : Pc) (s : State) : State :=
  if s.bytecodeValid && s.worldValid then startRun entry s
  else giveBack (.status (Config.statusNumber .stateNotValid)) s

/-- The value the last accepted `HostRun` returns to its caller once its run has ended: the one `status` then holds
(44_host_operations.md R176). DESIGN CHOICE (log entry 20, safe): the spec does not say what the caller gets when reset
abandons the run, only that no status is published (70_reset_and_hazards.md R230); here it gets nothing. Before the
first accepted run there is nothing to give either. -/
def hostRunResult (s : State) : Option Byte := if s.busy || !s.statusWritten then none else some s.status

/-- `HostShortCircuit()`, 44_host_operations.md R178. -/
def hostShortCircuit (s : State) : State := { s with shortMask := 0 }

/-- The effect of an enabled host operation. -/
def hostMove (op : HostOp) (s : State) : State :=
  match op with
  | .reset => hostReset s
  | .loadImage bytes => hostLoadImage bytes s
  | .loadWorld cells robot => hostLoadWorld cells robot s
  | .run entry => hostRun entry s
  | .shortCircuit => hostShortCircuit s
  | .readStatus => hostReadStatus s
  | .readWorld => hostReadWorld s
  | .readRobot => hostReadRobot s

end Sys2Proof.Machine
end

