-- ==== Sys2Proof/Machine/Operands.lean ====
section
/-! DEFINITION. The operands no instruction names: the robot's own cell and the cell in front of it
(20_memory.md R50). The operands an instruction does name, target, loop top and count, are read by Decode.lean. -/
namespace Sys2Proof.Machine

/-- `preview_step()`, 41_robot_primitives.md R120: the cell in front of the robot, or none at the edge of the grid. -/
def previewStep (s : State) : Option (Word × Word) :=
  if s.d = 0 then if s.py.toNat + 1 ≥ Config.gridSide then none else some (s.px, s.py + 1)
  else if s.d = 1 then if s.px = 0 then none else some (s.px - 1, s.py)
  else if s.d = 2 then if s.py = 0 then none else some (s.px, s.py - 1)
  else if s.px.toNat + 1 ≥ Config.gridSide then none else some (s.px + 1, s.py)

/-- `get` at a pair of coordinate registers. -/
def cellAt (x y : Word) (s : State) : Except Cause Nibble := gridGet s.grid x.toNat y.toNat

/-- `here()`, 41_robot_primitives.md R126. -/
def here (s : State) : Except Cause Nibble := cellAt s.px s.py s

/-- `set` at the robot's cell (41_robot_primitives.md R124, R125): the state with the cell written, or the fault. -/
def setHere (v : Nibble) (s : State) : Except Cause State :=
  match gridSet s.grid s.px.toNat s.py.toNat v with
  | .error c => .error c
  | .ok g => .ok (withGrid g s)

end Sys2Proof.Machine
end

