-- ==== Sys2Proof/Machine/Flags.lean ====
section
/-! DEFINITION. The conditions. The block has no flags register and stores no condition (10_state.md R46): a condition
is computed from the robot and the grid when a BRANCH executes. -/
namespace Sys2Proof.Machine

/-- `wall_ahead()`, 42_control_transfer.md R142: the edge of the grid counts as a wall. -/
def wallAhead (s : State) : Except Cause Bool :=
  match previewStep s with
  | none => .ok true
  | some (x, y) =>
    match cellAt x y s with
    | .error c => .error c
    | .ok v => .ok (v == Config.wall)

/-- IS_FLAG of 42_control_transfer.md R140: the robot's cell is neither empty nor a wall. -/
def flagHere (s : State) : Except Cause Bool :=
  match here s with
  | .error c => .error c
  | .ok v => .ok (v != 0 && v != Config.wall)

/-- `raw(cond)`, 42_control_transfer.md R140. -/
def rawCond (cond : Cond) (s : State) : Except Cause Bool :=
  match cond with
  | .none => .ok true
  | .isWall => wallAhead s
  | .isFlag => flagHere s
  | .isHome => .ok (s.px == s.hx && s.py == s.hy)
  | .isNorth => .ok (s.d == 0)
  | .isWest => .ok (s.d == 1)
  | .isSouth => .ok (s.d == 2)
  | .isEast => .ok (s.d == 3)

/-- `cond_true(cond, inv)`, 42_control_transfer.md R141: `raw XOR invert`. -/
def condTrue (cond : Cond) (inv : Bool) (s : State) : Except Cause Bool :=
  match rawCond cond s with
  | .error c => .error c
  | .ok raw => .ok (raw ^^ inv)

end Sys2Proof.Machine
end

