-- ==== Sys2Proof/Machine/Control.lean ====
section
/-! DEFINITION. Control transfer (42_control_transfer.md): BRANCH, BRANCH_LINKED, RETN, STOP. -/
namespace Sys2Proof.Machine

/-- BRANCH, 42_control_transfer.md R143. A target outside the image faults at the next fetch, not here. -/
def execBranch (cond : Cond) (inv : Bool) (target : Pc) (s : State) : Host.Outcome State Fault Refusal :=
  match condTrue cond inv s with
  | .error c => .next (raiseFault c s)
  | .ok true => .next (jump target s)
  | .ok false => .next (advance 5 s)

/-- BRANCH_LINKED, 42_control_transfer.md R146. -/
def execBranchLinked (target : Pc) (s : State) : Host.Outcome State Fault Refusal :=
  .next (openFrame (fun t => jump target (pushCall (t.pc + 5) t)) s)

/-- RETN, 42_control_transfer.md R149. -/
def execRetn (s : State) : Host.Outcome State Fault Refusal :=
  match s.callStack with
  | [] => .next (terminate .success s)
  | ret :: _ => .next (jump ret (popCall s))

/-- STOP, 42_control_transfer.md R151. -/
def execStop (s : State) : Host.Outcome State Fault Refusal :=
  .next (terminate .stopEncountered s)

end Sys2Proof.Machine
end

