-- ==== Sys2Proof/Machine/Loop.lean ====
section
/-! DEFINITION. Counted loops (43_repeat.md): REPEAT. -/
namespace Sys2Proof.Machine

/-- The lines of 43_repeat.md R162 both kinds of visit execute, for the current frame `f`: close the loop, or go round
again. -/
def visitLoop (top : Pc) (f : Frame) (s : State) : State :=
  if f.remaining = 1 then advance 7 (popRepeat s)
  else jump top (setRepeat { f with remaining := f.remaining - 1 } s)

/-- A first visit, 43_repeat.md R162: the count is checked, then the frame opened, then the visit made. -/
def firstVisit (top : Pc) (count : Count) (s : State) : State :=
  if count = 0 then raiseFault .repeatZero s
  else openFrame (fun t => visitLoop top ⟨t.pc, count⟩ (pushRepeat ⟨t.pc, count⟩ t)) s

/-- REPEAT, 43_repeat.md R162: a continuing visit when the current frame was opened by the REPEAT at this very offset
(R161), a first visit otherwise. -/
def execRepeat (top : Pc) (count : Count) (s : State) : Host.Outcome State Fault Refusal :=
  match s.curRepeat with
  | none => .next (firstVisit top count s)
  | some f =>
    if f.origin = s.pc then .next (visitLoop top f s)
    else .next (firstVisit top count s)

end Sys2Proof.Machine
end

