-- ==== Sys2Proof/Machine/Robot.lean ====
section
/-! DEFINITION. The four robot primitives (41_robot_primitives.md): the only instructions that change the world. -/
namespace Sys2Proof.Machine

/-- STEP, 41_robot_primitives.md R122. -/
def execStep (s : State) : Host.Outcome State Fault Refusal :=
  match previewStep s with
  | none => .next (terminate .stepOutOfBounds s)
  | some (x, y) =>
    match cellAt x y s with
    | .error c => .next (raiseFault c s)
    | .ok v =>
      if v = Config.wall then .next (terminate .stepOutOfBounds s)
      else .next (advance 1 (moveRobot x y s))

/-- LEFT, 41_robot_primitives.md R123. -/
def execLeft (s : State) : Host.Outcome State Fault Refusal :=
  .next (advance 1 (turnLeft s))

/-- The last two lines of PICK_UP and PLACE: `set(px, py, v); pc <- pc + 1`. -/
def writeHere (v : Nibble) (s : State) : State :=
  match setHere v s with
  | .error c => raiseFault c s
  | .ok t => advance 1 t

/-- PICK_UP, 41_robot_primitives.md R124, its checks in the order of the rule. -/
def execPickUp (s : State) : Host.Outcome State Fault Refusal :=
  match here s with
  | .error c => .next (raiseFault c s)
  | .ok h =>
    if h = 0 then .next (terminate .pickupZeroFlags s)
    else if h.toNat > Config.maxFlags then .next (raiseFault .cellNotFlagcount s)
    else .next (writeHere (h - 1) s)

/-- PLACE, 41_robot_primitives.md R125, its checks in the order of the rule. -/
def execPlace (s : State) : Host.Outcome State Fault Refusal :=
  match here s with
  | .error c => .next (raiseFault c s)
  | .ok h =>
    if h.toNat = Config.maxFlags then .next (terminate .placeMaxFlags s)
    else if h.toNat > Config.maxFlags then .next (raiseFault .cellNotFlagcount s)
    else .next (writeHere (h + 1) s)

end Sys2Proof.Machine
end

