-- ==== Sys2Proof/Machine/Dispatch.lean ====
section
/-! DEFINITION. Dispatch on the instruction alone (40_fetch_dispatch.md R106). -/
namespace Sys2Proof.Machine

def exec (i : Instr) (s : State) : Host.Outcome State Fault Refusal :=
  match i with
  | .step => Sys2Proof.Machine.execStep s
  | .left => Sys2Proof.Machine.execLeft s
  | .pickUp => Sys2Proof.Machine.execPickUp s
  | .place => Sys2Proof.Machine.execPlace s
  | .branch cond inv target => Sys2Proof.Machine.execBranch cond inv target s
  | .branchLinked target => Sys2Proof.Machine.execBranchLinked target s
  | .retn => Sys2Proof.Machine.execRetn s
  | .stop => Sys2Proof.Machine.execStop s
  | .repeatLoop top count => Sys2Proof.Machine.execRepeat top count s

end Sys2Proof.Machine
end

