-- ==== Sys2Proof/Machine/Interpreter.lean ====
section
/-! DEFINITION. The interpreter's move: fetch, decode, dispatch (40_fetch_dispatch.md R100 to R106). -/
namespace Sys2Proof.Machine

/-- `fa <- pc * short_mask`, 40_fetch_dispatch.md R102. -/
def fetchAddress (s : State) : Pc := s.pc * s.shortMask.setWidth _

/-- The bytes of the image from address `a` on, as many as the longest instruction takes and the image has. -/
def fetchWindow (s : State) (a : Nat) : List Byte :=
  (List.range (min maxLength (s.imageLen.toNat - a))).map fun k => s.image.read (a + k)

/-- The fault a decoding error raises (30_encoding.md R98). -/
def causeOf : DecodeError → Cause
  | .fetchRange => .fetchRange
  | .illegalTag => .illegalTag
  | .reservedField => .reservedField

/-- `Decode(fa)`, 30_encoding.md R98. -/
def decodeAt (s : State) (a : Nat) : Except Cause Instr :=
  match decode (fetchWindow s a) with
  | .ok p => .ok p.1
  | .error e => .error (causeOf e)

/-- `Step()`, 40_fetch_dispatch.md R106, once the interpreter has a step. -/
def runInstruction (s : State) : Host.Outcome State Fault Refusal :=
  match decodeAt s (fetchAddress s).toNat with
  | .error c => .next (raiseFault c s)
  | .ok i => exec i s

/-- The interpreter's turn: it has a step exactly when a run is in progress and no fault is recorded
(40_fetch_dispatch.md R101). -/
def interpreterTurn (s : State) : Host.Outcome State Fault Refusal :=
  match s.fault with
  | some c => .fault (.faulted c)
  | none => if s.busy then runInstruction s else .fault .idle

end Sys2Proof.Machine
end

