-- ==== Sys2Proof/Machine/Turns.lean ====
section
/-! DEFINITION. The interleaving of the two agents (10_state.md R45, 20_memory.md R69, decision D26), with the order
held in State (log entry 2), and the state in which the host's question about one instruction is asked. -/
namespace Sys2Proof.Machine

/-- The first entry of the agenda taken off. -/
def popAgenda (s : State) : State := { s with agenda := s.agenda.tail }

/-- One move. With nothing on the agenda the interpreter moves. A host operation that is not enabled while a run is in
progress waits on the lock, keeping its place, and the interpreter moves (44_host_operations.md R170: "a caller wait";
log entry 3). -/
def takeTurn (s : State) : Host.Outcome State Fault Refusal :=
  match s.agenda with
  | [] => interpreterTurn s
  | .interpreter :: _ => interpreterTurn (popAgenda s)
  | .host op :: _ =>
    if hostEnabled op s then .next (hostMove op (popAgenda s)) else interpreterTurn s

/-- A run that is about to fetch the given instruction at offset 1, behind the reserved RETN (log entry 12): what
loading such an image and starting a run at 1 set, and nothing that the fetch does not need. -/
def placeInstruction (bytes : List Byte) (s : State) : State :=
  { s with
    image := Memory.ofBytes (plainHead .retn :: bytes)
    imageLen := BitVec.ofNat 32 (bytes.length + 1)
    bytecodeValid := true
    worldValid := true
    shortMask := 1
    busy := true
    fault := none
    pc := 1
    agenda := [] }

end Sys2Proof.Machine
end

