-- ==== Sys2Proof/Machine/Step.lean ====
section
/-! DEFINITION. One step of the machine: one move of one agent (40_fetch_dispatch.md R100, decision D26). -/
namespace Sys2Proof.Machine

/-- One move. -/
def step (s : State) : Host.Outcome State Fault Refusal := takeTurn s

/-- The given instruction stored where the next step fetches (log entry 12). -/
def State.withFetchWord (s : State) (nbits w : Nat) : State := placeInstruction (tableBytes nbits w) s

end Sys2Proof.Machine
end

