-- ==== Sys2Proof/Safety.lean ====
section
/-! DEFINITION. What counts as a legal state and as a safe run, in the terms the statements use (10_state.md R40 to R42,
44_host_operations.md R172, 60_exceptions.md R206). -/
namespace Sys2Proof.Safety
open Sys2Proof.Machine

/-! ## Legal states -/

/-- 10_state.md R25: a cell holds a flag count or the wall marker. -/
def cellLegal (v : Nibble) : Prop := v.toNat ≤ Config.maxFlags ∨ v = Config.wall

/-- 10_state.md R40: every cell is legal and the robot is on the grid. -/
def WorldLegal (s : State) : Prop :=
  (∀ x y, InGrid x y → cellLegal (cellValue s.grid x y)) ∧ InGrid s.px.toNat s.py.toNat

/-- 10_state.md R41: `len(call_stack) + len(repeat_stack) + (1 if cur_repeat != none else 0)`. -/
def openFrames (s : State) : Nat := s.callStack.length + s.repeatStack.length + s.curRepeat.toList.length

/-- 43_repeat.md R166: `remaining` is always in 1..65535, in every open repeat frame. -/
def FramesLegal (s : State) : Prop := ∀ f ∈ s.curRepeat.toList ++ s.repeatStack, f.remaining ≠ 0

/-- 10_state.md R35, R36: an outer loop is open only while a current one is. -/
def NestingLegal (s : State) : Prop := s.curRepeat = none → s.repeatStack = []

/-- 44_host_operations.md R171: at least one byte, and a RETN at offset 0. -/
def ImageLegal (s : State) : Prop := 0 < s.imageLen.toNat ∧ s.image.read 0 = plainHead .retn

/-- Both spaces are in canonical form and list no address outside themselves (20_memory.md R51, R52). -/
def MemoryLegal (s : State) : Prop :=
  s.grid.wf ∧ s.image.wf ∧ (∀ c ∈ s.grid, c.1 < Config.gridBytes) ∧ (∀ c ∈ s.image, c.1 < s.imageLen.toNat)

/-- 10_state.md R29: the register holds the number of a terminal status. -/
def statusTerminal (b : Byte) : Prop := ∃ c ∈ terminalStatuses, b = Config.statusNumber c

/-- 44_host_operations.md R185 with 10_state.md R32: once written, `status` is IN_PROGRESS exactly while a run is in
progress, and a terminal code otherwise. -/
def StatusLegal (s : State) : Prop :=
  if s.busy then s.statusWritten = true ∧ s.status = Config.statusNumber .inProgress
  else s.statusWritten = true → statusTerminal s.status

/-- The invariant of the machine: what every state reached from reset satisfies, whatever the agents do. -/
structure Legal (s : State) : Prop where
  memory : MemoryLegal s
  world : s.worldValid = true → WorldLegal s
  image : s.bytecodeValid = true → ImageLegal s
  status : StatusLegal s
  running : s.busy = true → s.bytecodeValid = true ∧ s.worldValid = true
  depth : s.busy = true → s.depth = openFrames s
  frames : s.busy = true → FramesLegal s
  nesting : s.busy = true → NestingLegal s

/-! ## Well-formed images and safe runs -/

/-- The `pc` updates of 40_fetch_dispatch.md R111 that the instruction at offset `a` can make: each with the return
offsets it leaves on the call stack, whose top stands first. A condition NONE leaves one outcome (42_control_transfer.md
R140, R141), and so does a count of 1 (43_repeat.md R162: the loop finishes on its first visit); RETN goes to the return
offset then pending (DEDUCED, log entry 21, safe). -/
def pcUpdates (a : Nat) (calls : List Nat) : Instr → List (Nat × List Nat)
  | .step | .left | .pickUp | .place => [(a + 1, calls)]
  | .branch .none false target => [(target.toNat, calls)]
  | .branch .none true _ => [(a + 5, calls)]
  | .branch _ _ target => [(target.toNat, calls), (a + 5, calls)]
  | .branchLinked target => [(target.toNat, (a + 5) :: calls)]
  | .retn =>
    match calls with
    | [] => []
    | ret :: rest => [(ret, rest)]
  | .stop => []
  | .repeatLoop top count =>
    if count = 1 then [(a + 7, calls)] else [(top.toNat, calls), (a + 7, calls)]

/-- The offsets reachable from an entry point in the image of a state, each with the return offsets then pending
(44_host_operations.md R172). -/
inductive Reachable (s : State) (entry : Nat) : Nat → List Nat → Prop where
  | start : Reachable s entry entry []
  | follow (a b : Nat) (calls calls' : List Nat) (i : Instr) :
      Reachable s entry a calls → decodeAt s a = .ok i → (b, calls') ∈ pcUpdates a calls i → Reachable s entry b calls'

/-- 44_host_operations.md R172: RETN at offset 0, the entry point inside the image, and every reachable offset the
first byte of a legal instruction, every count at least 1. -/
def WellFormedImage (s : State) (entry : Nat) : Prop :=
  ImageLegal s ∧ entry < s.imageLen.toNat ∧
    ∀ a calls, Reachable s entry a calls → ∃ i, decodeAt s a = .ok i ∧ i.wellFormed = true

/-- An open repeat frame has fewer iterations left than the REPEAT that opened it counts (43_repeat.md R162). -/
def FramesCountDown (s : State) : Prop :=
  ∀ f ∈ s.curRepeat.toList ++ s.repeatStack, ∀ top count,
    decodeAt s f.origin.toNat = .ok (.repeatLoop top count) → f.remaining.toNat < count.toNat

/-- A state of a run that 60_exceptions.md R206 promises no fault: a well-formed image, control, while the mask lets it
through, at a reachable offset, and the robot on no wall. -/
structure SafeRun (entry : Nat) (s : State) : Prop where
  legal : Legal s
  image : WellFormedImage s entry
  control : s.busy = true → s.shortMask = 1 → Reachable s entry s.pc.toNat (s.callStack.map BitVec.toNat)
  counting : s.busy = true → FramesCountDown s
  ground : cellValue s.grid s.px.toNat s.py.toNat ≠ Config.wall
  unfaulted : s.fault = none

/-! ## Loops and runs, for the statements -/

/-- One execution of the REPEAT at the current `pc`. -/
def repeatVisit (top : Pc) (count : Count) (s : State) : State :=
  match exec (.repeatLoop top count) s with
  | .next t => t
  | _ => s

/-- The state in which the REPEAT is reached for the (k+1)-th time, when the body runs after every visit. -/
def loopArrival (body : State → State) (top : Pc) (count : Count) : Nat → State → State
  | 0, s => s
  | k + 1, s => body (repeatVisit top count (loopArrival body top count k s))

/-- A loop body that neither returns past its loop nor re-enters it (43_repeat.md R163): it brings control to the
REPEAT at offset `r` and leaves the repeat state and the depth as it found them. The rest of the state is its own. -/
def BodyReturnsTo (r : Pc) (body : State → State) : Prop :=
  ∀ u, (body u).pc = r ∧ (body u).curRepeat = u.curRepeat ∧ (body u).repeatStack = u.repeatStack ∧
    (body u).depth = u.depth

/-- Two states that differ at most in the execution state (10_state.md R38). -/
def SameButExecution (s u : State) : Prop :=
  u = { s with
    pc := u.pc, callStack := u.callStack, repeatStack := u.repeatStack, curRepeat := u.curRepeat, depth := u.depth }

/-- The robot registers and the grid: the world (00_scope.md R3). -/
def SameWorld (s t : State) : Prop :=
  t.px = s.px ∧ t.py = s.py ∧ t.d = s.d ∧ t.hx = s.hx ∧ t.hy = s.hy ∧ t.grid = s.grid

end Sys2Proof.Safety
end

