-- ==== Sys2Proof/Certificates/Slice0/Obligations.lean ====
section
/-! DEFINITION. The statements for the provers. OBLIGATIONS.json lists them with the rules of spec/ they formalise. -/
open Sys2Proof Sys2Proof.Machine Sys2Proof.Safety

/-! ## Encoding -/

/-- 30_encoding.md sections 1 to 3: the bytes of every instruction, at every operand, decode to that instruction, and
the bytes after them are left over. -/
def Obligations.DecodeOfEncodeIsIdentity : Prop :=
  ∀ (i : Instr) (rest : List Byte), decode (encode i ++ rest) = .ok (i, rest)

/-- 30_encoding.md sections 1 to 4: whatever decodes is the encoding of what it decodes to, so every instruction has one
encoding and no reserved spelling is taken for another. -/
def Obligations.DecodedBytesAreTheEncoding : Prop :=
  ∀ (bytes : List Byte) (i : Instr) (rest : List Byte), decode bytes = .ok (i, rest) → bytes = encode i ++ rest

/-- 30_encoding.md R98: the decoder at any offset of any image, its checks in order, its fields and operands as sums of
byte values. -/
def Obligations.DecoderFollowsTheRule : Prop :=
  ∀ (s : State) (fa : Nat),
    let len := s.imageLen.toNat
    let b := fun k => (s.image.read (fa + k)).toNat
    let tag := b 0 % 16
    let cond := b 0 / 16 % 8
    let inv := b 0 / 128
    let size := if tag = 4 ∨ tag = 5 then 5 else if tag = 8 then 7 else 1
    let word := BitVec.ofNat 32 (b 1 + 256 * b 2 + 65536 * b 3 + 16777216 * b 4)
    let count := BitVec.ofNat 16 (b 5 + 256 * b 6)
    decodeAt s fa =
      if len ≤ fa then .error .fetchRange
      else if 9 ≤ tag then .error .illegalTag
      else if len < fa + size then .error .fetchRange
      else if tag ≠ 4 ∧ (cond ≠ 0 ∨ inv ≠ 0) then .error .reservedField
      else if tag = 0 then .ok .step
      else if tag = 1 then .ok .left
      else if tag = 2 then .ok .pickUp
      else if tag = 3 then .ok .place
      else if tag = 4 then
        .ok (.branch
          (if cond = 0 then .none else if cond = 1 then .isWall else if cond = 2 then .isFlag
            else if cond = 3 then .isHome else if cond = 4 then .isNorth else if cond = 5 then .isWest
            else if cond = 6 then .isSouth else .isEast)
          (decide (inv = 1)) word)
      else if tag = 5 then .ok (.branchLinked word)
      else if tag = 6 then .ok .retn
      else if tag = 7 then .ok .stop
      else .ok (.repeatLoop word count)

/-- 30_encoding.md section 4: every head byte followed by enough bytes is a legal instruction, an illegal tag or a
reserved field, and there are 24, 112 and 120 of them. -/
def Obligations.HeadBytesSplitThreeWays : Prop :=
  (∀ (head : Byte) (rest : List Byte), 6 ≤ rest.length →
    (9 ≤ head.toNat % 16 → decode (head :: rest) = .error .illegalTag) ∧
    (head.toNat % 16 < 9 → head.toNat % 16 ≠ 4 → 16 ≤ head.toNat → decode (head :: rest) = .error .reservedField) ∧
    (head.toNat % 16 < 9 → (head.toNat % 16 = 4 ∨ head.toNat < 16) → ∃ p, decode (head :: rest) = .ok p)) ∧
  ((List.range 256).filter fun h => decide (9 ≤ h % 16)).length = 112 ∧
  ((List.range 256).filter fun h => decide (h % 16 < 9 ∧ h % 16 ≠ 4 ∧ 16 ≤ h)).length = 120 ∧
  ((List.range 256).filter fun h => decide (h % 16 < 9 ∧ (h % 16 = 4 ∨ h < 16))).length = 24

/-- 95_test_vectors.md section 2.2 and 30_encoding.md section 3: words written out from the encoding tables decode to
the instructions they stand for. -/
def Obligations.SpecWordsDecode : Prop :=
  decode [0x00] = .ok (.step, []) ∧
  decode [0x01] = .ok (.left, []) ∧
  decode [0x02] = .ok (.pickUp, []) ∧
  decode [0x03] = .ok (.place, []) ∧
  decode [0x14, 0x0C, 0x00, 0x00, 0x00] = .ok (.branch .isWall false 12, []) ∧
  decode [0xF4, 0x00, 0x01, 0x00, 0x00] = .ok (.branch .isEast true 256, []) ∧
  decode [0x05, 0x78, 0x56, 0x34, 0x12] = .ok (.branchLinked 0x12345678, []) ∧
  decode [0x06] = .ok (.retn, []) ∧
  decode [0x07] = .ok (.stop, []) ∧
  decode [0x08, 0x00, 0x00, 0x01, 0x00, 0x00, 0x01] = .ok (.repeatLoop 65536 256, [])

/-! ## The grid -/

/-- 20_memory.md R54, R56: the address of a cell, and what `get` reads there. -/
def Obligations.GridGetReadsTheCellNibble : Prop :=
  ∀ (g : Memory) (x y : Nat), x < Config.gridSide → y < Config.gridSide →
    let i := x + y * Config.gridSide
    i < Config.gridSide * Config.gridSide ∧ i / 2 < Config.gridBytes ∧ i % 2 = x % 2 ∧
    ∃ v, gridGet g x y = .ok v ∧
      v.toNat = if x % 2 = 0 then (g.read (i / 2)).toNat % 16 else (g.read (i / 2)).toNat / 16

/-- 20_memory.md R57: `set` rewrites one nibble of one byte; `get` then reads it, and every other cell and every other
byte reads as before. The memory keeps its canonical form. -/
def Obligations.GridSetWritesOneNibble : Prop :=
  ∀ (g : Memory) (x y : Nat) (v : Nibble), g.wf → x < Config.gridSide → y < Config.gridSide →
    ∃ g', gridSet g x y v = .ok g' ∧ g'.wf ∧
      (g'.read (cellAddress x y)).toNat =
        (let b := (g.read (cellAddress x y)).toNat
         if x % 2 = 0 then b / 16 * 16 + v.toNat else v.toNat * 16 + b % 16) ∧
      (∀ a, a ≠ cellAddress x y → g'.read a = g.read a) ∧
      gridGet g' x y = .ok v ∧
      (∀ x' y', ¬ (x' = x ∧ y' = y) → gridGet g' x' y' = gridGet g x' y')

/-- 20_memory.md R58: outside the grid both accessors raise `F_GRID_RANGE`; no instruction does so in a legal world. -/
def Obligations.GridAccessOutsideFaults : Prop :=
  (∀ (g : Memory) (x y : Nat) (v : Nibble), Config.gridSide ≤ x ∨ Config.gridSide ≤ y →
    gridGet g x y = .error .gridRange ∧ gridSet g x y v = .error .gridRange) ∧
  (∀ (s t : State) (i : Instr), WorldLegal s → s.fault = none → exec i s = .next t → t.fault ≠ some .gridRange)

/-- 20_memory.md section 2, 40_fetch_dispatch.md section 4: an instruction whose cell is outside the grid (no legal
world allows it) records `F_GRID_RANGE` and does nothing else. -/
def Obligations.OutOfGridAccessRecordsTheFault : Prop :=
  ∀ (s : State),
    (∀ x y, previewStep s = some (x, y) → gridGet s.grid x.toNat y.toNat = .error .gridRange →
      exec .step s = .next { s with fault := some .gridRange } ∧
      ∀ inv target, exec (.branch .isWall inv target) s = .next { s with fault := some .gridRange }) ∧
    (gridGet s.grid s.px.toNat s.py.toNat = .error .gridRange →
      exec .pickUp s = .next { s with fault := some .gridRange } ∧
      exec .place s = .next { s with fault := some .gridRange } ∧
      ∀ inv target, exec (.branch .isFlag inv target) s = .next { s with fault := some .gridRange })

/-! ## Robot primitives -/

/-- 41_robot_primitives.md R120: the four-case table, and the law that there is no cell ahead exactly on the boundary
faced. -/
def Obligations.PreviewStepTable : Prop :=
  ∀ (s : State),
    (s.d = 0 → Config.gridSide ≤ s.py.toNat + 1 → previewStep s = none) ∧
    (s.d = 0 → s.py.toNat + 1 < Config.gridSide →
      ∃ y, previewStep s = some (s.px, y) ∧ y.toNat = s.py.toNat + 1) ∧
    (s.d = 1 → s.px.toNat = 0 → previewStep s = none) ∧
    (s.d = 1 → s.px.toNat ≠ 0 → ∃ x, previewStep s = some (x, s.py) ∧ x.toNat + 1 = s.px.toNat) ∧
    (s.d = 2 → s.py.toNat = 0 → previewStep s = none) ∧
    (s.d = 2 → s.py.toNat ≠ 0 → ∃ y, previewStep s = some (s.px, y) ∧ y.toNat + 1 = s.py.toNat) ∧
    (s.d = 3 → Config.gridSide ≤ s.px.toNat + 1 → previewStep s = none) ∧
    (s.d = 3 → s.px.toNat + 1 < Config.gridSide →
      ∃ x, previewStep s = some (x, s.py) ∧ x.toNat = s.px.toNat + 1) ∧
    (s.px.toNat < Config.gridSide → s.py.toNat < Config.gridSide →
      (previewStep s = none ↔
        (s.d = 0 ∧ s.py.toNat = Config.gridSide - 1) ∨ (s.d = 1 ∧ s.px.toNat = 0) ∨
        (s.d = 2 ∧ s.py.toNat = 0) ∨ (s.d = 3 ∧ s.px.toNat = Config.gridSide - 1)))

/-- 41_robot_primitives.md R122: STEP moves the robot to the cell ahead, one of its coordinates changing by 1, or ends
the run at the edge or at a wall. -/
def Obligations.StepMovesOrEndsTheRun : Prop :=
  encode .step = [0x00] ∧
  ∀ (s : State),
    (previewStep s = none → exec .step s = .next { s with status := 8, busy := false }) ∧
    (∀ x y, previewStep s = some (x, y) → gridGet s.grid x.toNat y.toNat = .ok 15 →
      exec .step s = .next { s with status := 8, busy := false }) ∧
    (∀ x y v, previewStep s = some (x, y) → gridGet s.grid x.toNat y.toNat = .ok v → v ≠ 15 →
      exec .step s = .next { s with px := x, py := y, pc := s.pc + 1 }) ∧
    (∀ x y, previewStep s = some (x, y) →
      (x = s.px ∧ (y.toNat = s.py.toNat + 1 ∨ y.toNat + 1 = s.py.toNat)) ∨
      (y = s.py ∧ (x.toNat = s.px.toNat + 1 ∨ x.toNat + 1 = s.px.toNat)))

/-- 41_robot_primitives.md R121, R123: LEFT always completes, adding 1 to the facing modulo 4; four turns are the
identity. -/
def Obligations.LeftTurnsCounterClockwise : Prop :=
  encode .left = [0x01] ∧
  (∀ s : State, ∃ f : BitVec 2, f.toNat = (s.d.toNat + 1) % 4 ∧ turnLeft s = { s with d := f } ∧
    exec .left s = .next { s with d := f, pc := s.pc + 1 }) ∧
  (∀ s : State, turnLeft (turnLeft (turnLeft (turnLeft s))) = s)

/-- 41_robot_primitives.md R124: PICK_UP takes one flag from the robot's cell, ends the run on an empty cell, and faults
on a cell that holds no flag count. Only the byte of that cell is written, and in it only the cell's nibble. -/
def Obligations.PickUpTakesOneFlag : Prop :=
  encode .pickUp = [0x02] ∧
  ∀ (s : State) (h : Nibble), gridGet s.grid s.px.toNat s.py.toNat = .ok h →
    (h.toNat = 0 → exec .pickUp s = .next { s with status := 9, busy := false }) ∧
    (Config.maxFlags < h.toNat → exec .pickUp s = .next { s with fault := some .cellNotFlagcount }) ∧
    (0 < h.toNat → h.toNat ≤ Config.maxFlags → s.grid.wf →
      ∃ g v, exec .pickUp s = .next { s with grid := g, pc := s.pc + 1 } ∧ g.wf ∧
        gridGet g s.px.toNat s.py.toNat = .ok v ∧ v.toNat + 1 = h.toNat ∧
        (∀ a, a ≠ cellAddress s.px.toNat s.py.toNat → g.read a = s.grid.read a) ∧
        (∀ x y, ¬ (x = s.px.toNat ∧ y = s.py.toNat) → gridGet g x y = gridGet s.grid x y))

/-- 41_robot_primitives.md R125: PLACE adds one flag to the robot's cell, ends the run on a full cell, and faults on a
cell that holds no flag count. Only the byte of that cell is written, and in it only the cell's nibble. -/
def Obligations.PlaceAddsOneFlag : Prop :=
  encode .place = [0x03] ∧
  ∀ (s : State) (h : Nibble), gridGet s.grid s.px.toNat s.py.toNat = .ok h →
    (h.toNat = Config.maxFlags → exec .place s = .next { s with status := 10, busy := false }) ∧
    (Config.maxFlags < h.toNat → exec .place s = .next { s with fault := some .cellNotFlagcount }) ∧
    (h.toNat < Config.maxFlags → s.grid.wf →
      ∃ g v, exec .place s = .next { s with grid := g, pc := s.pc + 1 } ∧ g.wf ∧
        gridGet g s.px.toNat s.py.toNat = .ok v ∧ v.toNat = h.toNat + 1 ∧
        (∀ a, a ≠ cellAddress s.px.toNat s.py.toNat → g.read a = s.grid.read a) ∧
        (∀ x y, ¬ (x = s.px.toNat ∧ y = s.py.toNat) → gridGet g x y = gridGet s.grid x y))

/-- 41_robot_primitives.md R127: a primitive that ends the run changes nothing but `status` and `busy`. -/
def Obligations.FailingPrimitiveIsNotApplied : Prop :=
  ∀ (s t : State) (i : Instr), i = .step ∨ i = .pickUp ∨ i = .place →
    s.busy = true → exec i s = .next t → t.busy = false → t = { s with status := t.status, busy := false }

/-! ## Conditions and control transfer -/

/-- 42_control_transfer.md R140: the truth value of each condition. In a legal world every condition has one, and
IS_FLAG is true exactly on a cell with at least one flag. -/
def Obligations.RawConditionTable : Prop :=
  ∀ (s : State),
    rawCond .none s = .ok true ∧
    (previewStep s = none → rawCond .isWall s = .ok true) ∧
    (∀ x y v, previewStep s = some (x, y) → gridGet s.grid x.toNat y.toNat = .ok v →
      rawCond .isWall s = .ok (decide (v.toNat = 15))) ∧
    (∀ h, gridGet s.grid s.px.toNat s.py.toNat = .ok h →
      rawCond .isFlag s = .ok (decide (h.toNat ≠ 0 ∧ h.toNat ≠ 15))) ∧
    rawCond .isHome s = .ok (decide (s.px = s.hx ∧ s.py = s.hy)) ∧
    rawCond .isNorth s = .ok (decide (s.d.toNat = 0)) ∧
    rawCond .isWest s = .ok (decide (s.d.toNat = 1)) ∧
    rawCond .isSouth s = .ok (decide (s.d.toNat = 2)) ∧
    rawCond .isEast s = .ok (decide (s.d.toNat = 3)) ∧
    (WorldLegal s → (∀ cond, ∃ raw, rawCond cond s = .ok raw) ∧
      ∀ h, gridGet s.grid s.px.toNat s.py.toNat = .ok h →
        (rawCond .isFlag s = .ok true ↔ 1 ≤ h.toNat ∧ h.toNat ≤ Config.maxFlags))

/-- 42_control_transfer.md section 1 (R142): `wall_ahead()` is true exactly when a STEP executed now would end the run. -/
def Obligations.WallAheadIsAFailingStep : Prop :=
  ∀ (s : State),
    (previewStep s = none → wallAhead s = .ok true) ∧
    (∀ x y v, previewStep s = some (x, y) → gridGet s.grid x.toNat y.toNat = .ok v →
      wallAhead s = .ok (decide (v.toNat = 15))) ∧
    (s.busy = true →
      (wallAhead s = .ok true ↔ exec .step s = .next { s with status := 8, busy := false }))

/-- 42_control_transfer.md R141, R143: BRANCH goes to its target or falls through by 5, as the condition, inverted or
not, says; it writes `pc` and nothing else. -/
def Obligations.BranchJumpsOrFallsThrough : Prop :=
  (∀ (cond : Cond) (inv : Bool) (target : Pc), ∃ head b0 b1 b2 b3 : Byte,
    encode (.branch cond inv target) = [head, b0, b1, b2, b3] ∧
    head.toNat = 4 + 16 * (Config.condNumber cond).toNat + 128 * inv.toNat ∧
    target.toNat = b0.toNat + 256 * b1.toNat + 65536 * b2.toNat + 16777216 * b3.toNat) ∧
  (∀ (s : State) (cond : Cond) (inv : Bool) (target : Pc) (raw : Bool), rawCond cond s = .ok raw →
    exec (.branch cond inv target) s = .next { s with pc := if raw = inv then s.pc + 5 else target }) ∧
  (∀ (s : State) (cond : Cond) (inv : Bool) (target : Pc), WorldLegal s →
    ∃ raw, rawCond cond s = .ok raw ∧
      exec (.branch cond inv target) s = .next { s with pc := if raw = inv then s.pc + 5 else target }) ∧
  (∀ (s : State) (target : Pc),
    exec (.branch .none false target) s = .next { s with pc := target } ∧
    exec (.branch .none true target) s = .next { s with pc := s.pc + 5 })

/-- 42_control_transfer.md section 3: below `FAST_DEPTH` a frame opening cannot fail; from there on a draw decides, and
both answers are left open (log entry 6: the draw is the model's free value). A failed opening changes nothing of the
stacks, the current frame, the depth or the world. -/
def Obligations.FrameOpeningMayFailOnlyPastFastDepth : Prop :=
  ∀ (s : State) (andThen : State → State),
    (s.depth < 512 → openFrame andThen s = andThen s) ∧
    (512 ≤ s.depth → openFrame andThen s =
      if Config.growOk s.draws then andThen { s with draws := s.draws + 1 }
      else { s with draws := s.draws + 1, status := 2, busy := false })

/-- 42_control_transfer.md R146: BRANCH_LINKED opens a frame (`openFrame` is the rule's `open_frame()`), pushes `pc + 5`
and jumps; below `FAST_DEPTH` it always completes. -/
def Obligations.BranchLinkedPushesTheReturnOffset : Prop :=
  ∀ (s : State) (target : Pc),
    let called := fun u : State =>
      { u with callStack := (s.pc + 5) :: s.callStack, depth := s.depth + 1, pc := target }
    (∃ b0 b1 b2 b3 : Byte, encode (.branchLinked target) = [0x05, b0, b1, b2, b3] ∧
      target.toNat = b0.toNat + 256 * b1.toNat + 65536 * b2.toNat + 16777216 * b3.toNat) ∧
    exec (.branchLinked target) s = .next (openFrame called s) ∧
    (s.depth < 512 → exec (.branchLinked target) s = .next (called s))

/-- 42_control_transfer.md R149: RETN pops the return offset into `pc`, or ends the run with SUCCESS. -/
def Obligations.RetnPopsOrEndsTheRun : Prop :=
  encode .retn = [0x06] ∧
  ∀ (s : State),
    (s.callStack = [] → exec .retn s = .next { s with status := 0, busy := false }) ∧
    (∀ ret rest, s.callStack = ret :: rest →
      exec .retn s = .next { s with pc := ret, callStack := rest, depth := s.depth - 1 })

/-- 42_control_transfer.md R151: STOP ends the run at any depth and changes nothing else. -/
def Obligations.StopEndsTheRun : Prop :=
  encode .stop = [0x07] ∧ ∀ (s : State), exec .stop s = .next { s with status := 11, busy := false }

/-! ## Loops -/

/-- 43_repeat.md R161, R162: REPEAT on a continuing visit closes its loop or goes round again; on a first visit it
faults on count 0, and otherwise opens its frame (`openFrame` is the rule's `open_frame()`) and makes the visit in the
same step. -/
def Obligations.RepeatOpensClosesOrGoesRound : Prop :=
  ∀ (s : State) (top : Pc) (count : Count),
    let first := ∀ f, s.curRepeat = some f → f.origin ≠ s.pc
    let outer := s.curRepeat.toList ++ s.repeatStack
    let opened := fun u : State =>
      if count = 1 then { u with curRepeat := outer.head?, repeatStack := outer.tail, depth := s.depth, pc := s.pc + 7 }
      else { u with curRepeat := some ⟨s.pc, count - 1⟩, repeatStack := outer, depth := s.depth + 1, pc := top }
    (∀ r, s.curRepeat = some ⟨s.pc, r⟩ → r ≠ 1 → exec (.repeatLoop top count) s =
      .next { s with curRepeat := some ⟨s.pc, r - 1⟩, pc := top }) ∧
    (s.curRepeat = some ⟨s.pc, 1⟩ → exec (.repeatLoop top count) s =
      .next { s with
        curRepeat := s.repeatStack.head?, repeatStack := s.repeatStack.tail, depth := s.depth - 1, pc := s.pc + 7 }) ∧
    (first → count = 0 → exec (.repeatLoop top count) s = .next { s with fault := some .repeatZero }) ∧
    (first → count ≠ 0 → exec (.repeatLoop top count) s = .next (openFrame opened s)) ∧
    (first → count ≠ 0 → s.depth < 512 → exec (.repeatLoop top count) s = .next (opened s))

/-- 43_repeat.md (R163, the iteration law): a REPEAT with count n, first reached below `FAST_DEPTH` and then through a
body that leaves the repeat state alone, goes back to its loop top n - 1 times and then falls through with the repeat
state it began with. A first visit at depth 512 or above, whose opening a draw decides, is left out. -/
def Obligations.RepeatRunsItsBodyCountTimes : Prop :=
  ∀ (s : State) (top : Pc) (count : Count) (body : State → State),
    BodyReturnsTo s.pc body → count ≠ 0 → s.depth < Config.fastDepth →
    (∀ f, s.curRepeat = some f → f.origin ≠ s.pc) → NestingLegal s →
    (∀ k, k + 1 < count.toNat →
      let t := repeatVisit top count (loopArrival body top count k s)
      t.pc = top ∧ t.curRepeat = some ⟨s.pc, BitVec.ofNat 16 (count.toNat - (k + 1))⟩) ∧
    (let t := repeatVisit top count (loopArrival body top count (count.toNat - 1) s)
     t.pc = s.pc + 7 ∧ t.curRepeat = s.curRepeat ∧ t.repeatStack = s.repeatStack ∧ t.depth = s.depth)

/-! ## Fetch and step -/

/-- 40_fetch_dispatch.md sections 2 and 3: the interpreter's step runs the instruction decoded at `pc * short_mask`, and
adds nothing. It is the interpreter's turn when the agenda is empty or says so, or when the host operation standing
first on it waits for the run to end (the agenda is the model's own: log entries 2 and 3). -/
def Obligations.StepRunsTheDecodedInstruction : Prop :=
  (∀ s : State, (s.shortMask = 1 → fetchAddress s = s.pc) ∧ (s.shortMask = 0 → fetchAddress s = 0)) ∧
  ∀ (s : State) (i : Instr), s.busy = true → s.fault = none → decodeAt s (fetchAddress s).toNat = .ok i →
    interpreterTurn s = exec i s ∧
    (s.agenda = [] → step s = exec i s) ∧
    (∀ rest, s.agenda = .interpreter :: rest → step s = exec i { s with agenda := rest }) ∧
    (∀ op rest, s.agenda = .host op :: rest → op ≠ .reset → op ≠ .shortCircuit → op ≠ .readStatus →
      step s = exec i s)

/-- 40_fetch_dispatch.md R103, R104, R105: what a fetch that decodes to nothing records, in the order of the checks. -/
def Obligations.FetchFaultsAreRecorded : Prop :=
  ∀ (s : State), s.busy = true → s.fault = none →
    let fa := (fetchAddress s).toNat
    let head := (s.image.read fa).toNat
    let size := if head % 16 = 4 ∨ head % 16 = 5 then 5 else if head % 16 = 8 then 7 else 1
    (s.imageLen.toNat ≤ fa → interpreterTurn s = .next { s with fault := some .fetchRange }) ∧
    (fa < s.imageLen.toNat → 9 ≤ head % 16 → interpreterTurn s = .next { s with fault := some .illegalTag }) ∧
    (fa < s.imageLen.toNat → head % 16 < 9 → s.imageLen.toNat < fa + size →
      interpreterTurn s = .next { s with fault := some .fetchRange }) ∧
    (head % 16 < 9 → fa + size ≤ s.imageLen.toNat → head % 16 ≠ 4 → 16 ≤ head →
      interpreterTurn s = .next { s with fault := some .reservedField })

/-- 40_fetch_dispatch.md R101: the interpreter has a step exactly when a run is in progress and no fault is recorded. -/
def Obligations.InterpreterStepsExactlyInARun : Prop :=
  ∀ (s : State), (∃ t, interpreterTurn s = .next t) ↔ (s.busy = true ∧ s.fault = none)

/-- 40_fetch_dispatch.md section 2 (R102, R107), 10_state.md section 5 (R30): with the mask at 0 the step of a run
executes RETN, whatever `pc` holds, and every later step of the run does too, since the mask stays 0. -/
def Obligations.MaskedFetchExecutesRetn : Prop :=
  (∀ s : State, Legal s → s.busy = true → ImageLegal s) ∧
  ∀ (s : State), ImageLegal s → s.busy = true → s.fault = none → s.shortMask = 0 →
    interpreterTurn s = exec .retn s ∧
    ∀ t, interpreterTurn s = .next t → t.shortMask = 0 ∧ ImageLegal t ∧ t.fault = none

/-- 60_exceptions.md section 4 (R211): an interrupted run with k open call frames ends with SUCCESS after exactly k + 1 further
steps, with no further change to the world; the repeat frames are not unwound. -/
def Obligations.InterruptedRunUnwindsInKPlusOneSteps : Prop :=
  ∀ (s : State), ImageLegal s → s.busy = true → s.fault = none → s.agenda = [] → s.shortMask = 0 →
    (∀ j, j ≤ s.callStack.length → ∃ u, core.run j s = .next u ∧ u.busy = true ∧ SameWorld s u) ∧
    ∃ t, core.run (s.callStack.length + 1) s = .next t ∧ t.status = 0 ∧ t.busy = false ∧ t.callStack = [] ∧
      t.curRepeat = s.curRepeat ∧ t.repeatStack = s.repeatStack ∧ SameWorld s t

/-- 40_fetch_dispatch.md section 4, 44_host_operations.md section 4: a step of a run goes on without touching `status`,
or publishes one terminal status and leaves the interpreter no step. Then `HostRun`, which gives nothing back before,
returns that status; `statusWritten`, the model's own, is true in every legal state of a run (log entries 7, 13, 20). -/
def Obligations.RunPublishesAtMostOneStatus : Prop :=
  ∀ (s t : State), s.agenda = [] → s.busy = true → step s = .next t →
    (t.busy = true ∧ t.status = s.status ∧ hostRunResult t = none) ∨
    (t.busy = false ∧ statusTerminal t.status ∧ (s.statusWritten = true → hostRunResult t = some t.status) ∧
      step t = .fault .idle)

/-- 40_fetch_dispatch.md section 3 (R111): what `pc` becomes when an instruction completes and the run goes on. That
`pc` is as it was once the run has ended is the model's choice: 10_state.md R38 calls it unspecified (log entry 8). -/
def Obligations.ProgramCounterUpdates : Prop :=
  ∀ (s t : State) (i : Instr), s.busy = true → s.fault = none → exec i s = .next t →
    (t.busy = false → t.pc = s.pc) ∧
    (t.fault = none → t.busy = true →
      match i with
      | .step | .left | .pickUp | .place => t.pc = s.pc + 1
      | .branch _ _ target => t.pc = target ∨ t.pc = s.pc + 5
      | .branchLinked target => t.pc = target ∧ t.callStack = (s.pc + 5) :: s.callStack
      | .retn => ∃ rest, s.callStack = t.pc :: rest
      | .stop => False
      | .repeatLoop top _ => t.pc = top ∨ t.pc = s.pc + 7)

/-! ## Whole-machine rules -/

/-- 10_state.md sections 2, 4 and 5, 20_memory.md section 5: no instruction writes the image, the home registers, the
validity flags or the mask; nor any field of the model's own but the draw counter. -/
def Obligations.NoInstructionWritesImageHomeOrControls : Prop :=
  ∀ (s t : State) (i : Instr), exec i s = .next t →
    t.image = s.image ∧ t.imageLen = s.imageLen ∧ t.hx = s.hx ∧ t.hy = s.hy ∧
    t.bytecodeValid = s.bytecodeValid ∧ t.worldValid = s.worldValid ∧ t.shortMask = s.shortMask ∧
    t.statusWritten = s.statusWritten ∧ t.agenda = s.agenda ∧ t.reply = s.reply

/-- 10_state.md sections 2, 3 and 6: which instructions may write which of the robot registers, the grid and the
execution state. -/
def Obligations.OnlyTheNamedInstructionsWriteEachRegister : Prop :=
  ∀ (s t : State) (i : Instr), exec i s = .next t →
    (i ≠ .step → t.px = s.px ∧ t.py = s.py) ∧
    (i ≠ .left → t.d = s.d) ∧
    (i ≠ .pickUp → i ≠ .place → t.grid = s.grid) ∧
    ((∀ target, i ≠ .branchLinked target) → i ≠ .retn → t.callStack = s.callStack) ∧
    ((∀ top count, i ≠ .repeatLoop top count) → t.curRepeat = s.curRepeat ∧ t.repeatStack = s.repeatStack) ∧
    ((∀ target, i ≠ .branchLinked target) → i ≠ .retn → (∀ top count, i ≠ .repeatLoop top count) →
      t.depth = s.depth ∧ t.draws = s.draws)

/-- 10_state.md section 3: walls are never created or removed by an instruction. -/
def Obligations.WallsAreNeverCreatedOrRemoved : Prop :=
  ∀ (s t : State) (i : Instr) (x y : Nat), s.grid.wf → exec i s = .next t →
    (gridGet t.grid x y = .ok 15 ↔ gridGet s.grid x y = .ok 15)

/-- 70_reset_and_hazards.md R232: nothing but reset, the two loads and the instructions of a run changes the world or
the image; no instruction and no load of a world changes the image. -/
def Obligations.OnlyLoadsResetAndRunsChangeTheWorld : Prop :=
  ∀ (s t : State), step s = .next t →
    ((SameWorld s t ∧ t.worldValid = s.worldValid) ∨
      (s.busy = true ∧ ∃ u i, SameWorld s u ∧ u.busy = true ∧ exec i u = .next t) ∨
      (∃ rest, s.agenda = .host .reset :: rest) ∨
      ∃ cells robot rest, s.agenda = .host (.loadWorld cells robot) :: rest ∧ s.busy = false) ∧
    ((t.image = s.image ∧ t.imageLen = s.imageLen ∧ t.bytecodeValid = s.bytecodeValid) ∨
      (∃ rest, s.agenda = .host .reset :: rest) ∨
      ∃ bytes rest, s.agenda = .host (.loadImage bytes) :: rest ∧ s.busy = false)

/-- 10_state.md section 5 (R30): who writes the mask, and what: the short-circuit 0, a reset and the start of a run 1;
no instruction does. -/
def Obligations.OnlyTheHostWritesTheMask : Prop :=
  ∀ (s t : State), step s = .next t →
    t.shortMask = s.shortMask ∨
    (t.shortMask = 0 ∧ ∃ rest, s.agenda = .host .shortCircuit :: rest) ∨
    (t.shortMask = 1 ∧ ∃ rest, s.agenda = .host .reset :: rest) ∨
    (t.shortMask = 1 ∧ s.busy = false ∧ t.busy = true ∧ ∃ entry rest, s.agenda = .host (.run entry) :: rest)

/-! ## Invariants -/

/-- 10_state.md section 9, 44_host_operations.md section 5: whatever the two agents do, a legal state is followed by a
legal state. -/
def Obligations.LegalStatesStayLegal : Prop :=
  ∀ (s t : State), Legal s → step s = .next t → Legal t

/-- 70_reset_and_hazards.md section 1: the state after reset is legal. -/
def Obligations.ResetIsLegal : Prop := Legal State.reset

/-- 10_state.md section 9 (R41): a run starts with the depth equal to the number of open frames, and every instruction
keeps it so. -/
def Obligations.DepthCountsTheOpenFrames : Prop :=
  (∀ (s : State) (entry : Pc), (startRun entry s).depth = openFrames (startRun entry s)) ∧
  ∀ (s t : State) (i : Instr), exec i s = .next t → s.depth = openFrames s → t.depth = openFrames t

/-- 43_repeat.md (R166): no open repeat frame ever has 0 iterations left: a run starts with none open, and
every instruction keeps it so. -/
def Obligations.RepeatCountsNeverReachZero : Prop :=
  (∀ (s : State) (entry : Pc), FramesLegal (startRun entry s)) ∧
  ∀ (s t : State) (i : Instr), exec i s = .next t → FramesLegal s → FramesLegal t

/-- 44_host_operations.md R185: once written, `status` holds IN_PROGRESS or one of the six terminal codes: so it is at
reset, and every step keeps it so. -/
def Obligations.StatusHoldsOnlyTheBlocksCodes : Prop :=
  let holds := fun s : State => s.statusWritten = true → s.status ∈ [0, 1, 2, 8, 9, 10, 11]
  holds State.reset ∧ ∀ s t : State, holds s → step s = .next t → holds t

/-- 10_state.md section 9 (R40): an accepted world is legal and every instruction keeps it so; no grid access made by an
instruction is then out of bounds. -/
def Obligations.WorldStaysLegal : Prop :=
  (∀ (s : State) (cells : CellArray) (robot : RobotRecord), s.grid.wf →
    (hostLoadWorld cells robot s).fault = none → WorldLegal (hostLoadWorld cells robot s)) ∧
  (∀ (s t : State) (i : Instr), s.grid.wf → WorldLegal s → exec i s = .next t → WorldLegal t) ∧
  (∀ (s : State), WorldLegal s →
    (∃ v, gridGet s.grid s.px.toNat s.py.toNat = .ok v) ∧
    ∀ x y, previewStep s = some (x, y) → ∃ v, gridGet s.grid x.toNat y.toNat = .ok v)

/-- 60_exceptions.md section 3 (R206): a run started from a well-formed image (44_host_operations.md section 2, R172,
with the `pc` updates of `pcUpdates`, log entry 21: DEDUCED) and a legal world with the robot on no wall never faults:
each of its steps has a next state, without a fault, from which the same holds, whatever the host does meanwhile short
of a reset. -/
def Obligations.SafeRunNeverFaults : Prop :=
  (∀ (s : State) (entry : Pc), Legal s → s.busy = false → s.fault = none → s.bytecodeValid = true →
    s.worldValid = true → WellFormedImage s entry.toNat →
    cellValue s.grid s.px.toNat s.py.toNat ≠ Config.wall → SafeRun entry.toNat (hostRun entry s)) ∧
  (∀ (s : State) (entry : Nat), SafeRun entry s → s.busy = true → (∀ rest, s.agenda ≠ .host .reset :: rest) →
    ∃ t, step s = .next t ∧ t.fault = none ∧ SafeRun entry t)

/-! ## Host operations -/

/-- 70_reset_and_hazards.md section 1: reset is always enabled and leaves the five values the spec states; so does the
model's state after reset. -/
def Obligations.ResetLeavesTheStatedValues : Prop :=
  let stated := fun s : State =>
    s.bytecodeValid = false ∧ s.worldValid = false ∧ s.shortMask = 1 ∧ s.busy = false ∧ s.fault = none
  stated State.reset ∧
  ∀ (s : State) (rest : List Turn), s.agenda = .host .reset :: rest → ∃ t, step s = .next t ∧ stated t

/-- 44_host_operations.md section 1 (R170): which host operations are enabled when, that an enabled one is one atomic
move, and that a refused one sets `fault` and changes nothing else. That one which is not enabled keeps its place on the
agenda and leaves the interpreter the turn is the model's choice (log entry 3; the agenda: log entry 2). -/
def Obligations.HostOperationsAreEnabledOrHaveNoMove : Prop :=
  (∀ (s : State) (op : HostOp),
    (op = .reset ∨ op = .shortCircuit ∨ op = .readStatus → hostEnabled op s = true) ∧
    (op ≠ .reset → op ≠ .shortCircuit → op ≠ .readStatus →
      (hostEnabled op s = true ↔ s.busy = false ∧ s.fault = none))) ∧
  (∀ (s : State) (op : HostOp) (rest : List Turn), s.agenda = .host op :: rest →
    (hostEnabled op s = true → step s = .next (hostMove op { s with agenda := rest })) ∧
    (hostEnabled op s = false → step s = interpreterTurn s)) ∧
  (∀ (s : State) (op : HostOp), s.fault = none → (hostMove op s).fault ≠ none →
    ∃ c, (c = .badImage ∨ c = .badWorld ∨ c = .worldNotLoaded) ∧ hostMove op s = { s with fault := some c })

/-- 44_host_operations.md R171: an image is accepted when it is not empty, not over-long and begins with a RETN; then
exactly its bytes are the image; otherwise the load is refused. -/
def Obligations.LoadImageInstallsTheBytes : Prop :=
  ∀ (s : State) (bytes : List Byte),
    let accepted := 1 ≤ bytes.length ∧ bytes.length ≤ 2 ^ 32 - 1 ∧ bytes.head? = some 0x06
    (accepted →
      let t := hostMove (.loadImage bytes) s
      t = { s with image := t.image, imageLen := t.imageLen, bytecodeValid := true } ∧
      t.imageLen.toNat = bytes.length ∧ t.image.wf ∧ ∀ a (h : a < bytes.length), t.image.read a = bytes[a]) ∧
    (¬ accepted → hostMove (.loadImage bytes) s = { s with fault := some .badImage })

/-- 44_host_operations.md R173: a world is accepted when every cell byte is a flag count or 255 and the record puts the
robot on the grid; then every cell and every robot register is the record's; otherwise the load is refused. -/
def Obligations.LoadWorldReplacesTheWorld : Prop :=
  ∀ (s : State) (cells : CellArray) (r : RobotRecord), s.grid.wf →
    let accepted := (∀ b ∈ cells.toList, b.toNat ≤ Config.maxFlags ∨ b.toNat = 255) ∧
      r.px.toNat < Config.gridSide ∧ r.py.toNat < Config.gridSide ∧ r.d.toNat ≤ 3
    (accepted →
      let t := hostMove (.loadWorld cells r) s
      t = { s with
        grid := t.grid, px := r.px, py := r.py, d := t.d, hx := r.hx, hy := r.hy, worldValid := true } ∧
      t.d.toNat = r.d.toNat ∧ t.grid.wf ∧
      ∀ x y, x < Config.gridSide → y < Config.gridSide → ∃ b v,
        cells.toList[x + y * Config.gridSide]? = some b ∧ gridGet t.grid x y = .ok v ∧
        v.toNat = if b.toNat = 255 then 15 else b.toNat) ∧
    (¬ accepted → hostMove (.loadWorld cells r) s = { s with fault := some .badWorld })

/-- 44_host_operations.md R182: loading a world and reading it back gives the array that was loaded. -/
def Obligations.WorldRoundTrip : Prop :=
  ∀ (s : State) (cells : CellArray) (r : RobotRecord), s.grid.wf → s.fault = none →
    (hostMove (.loadWorld cells r) s).fault = none →
    (hostMove .readWorld (hostMove (.loadWorld cells r) s)).reply = some (.world cells)

/-- 44_host_operations.md R175: what `HostReadWorld` gives back, cell by cell, and that it changes nothing else (the
reply is the model's own field, log entry 13). -/
def Obligations.ReadWorldReturnsEveryCell : Prop :=
  ∀ (s : State),
    (s.worldValid = true → ∃ out : CellArray, hostMove .readWorld s = { s with reply := some (.world out) } ∧
      ∀ x y, x < Config.gridSide → y < Config.gridSide → ∃ b v,
        out.toList[x + y * Config.gridSide]? = some b ∧ gridGet s.grid x y = .ok v ∧
        b.toNat = if v.toNat = 15 then 255 else v.toNat) ∧
    (s.worldValid = false → hostMove .readWorld s = { s with fault := some .worldNotLoaded })

/-- 44_host_operations.md R181: what `HostReadRobot` gives back (the reply is the model's own field, log entry 13). -/
def Obligations.ReadRobotReturnsTheRegisters : Prop :=
  ∀ (s : State),
    (s.worldValid = true → ∃ dw : Word, dw.toNat = s.d.toNat ∧
      hostMove .readRobot s = { s with reply := some (.robot ⟨s.px, s.py, dw, s.hx, s.hy⟩) }) ∧
    (s.worldValid = false → hostMove .readRobot s = { s with fault := some .worldNotLoaded })

/-- 44_host_operations.md section 3 (R179): `HostReadStatus` gives back the register, IN_PROGRESS during a run of a legal state and
a terminal status after it; before the first accepted run it gives back a free value (log entry 7). -/
def Obligations.ReadStatusReturnsTheRegister : Prop :=
  ∀ (s : State),
    (s.statusWritten = true → hostMove .readStatus s = { s with reply := some (.status s.status) }) ∧
    (s.statusWritten = false → hostMove .readStatus s =
      { s with reply := some (.status (Config.unwrittenStatus s.draws)), draws := s.draws + 1 }) ∧
    (Legal s → s.busy = true → hostMove .readStatus s = { s with reply := some (.status 1) }) ∧
    (Legal s → s.busy = false → s.statusWritten = true → ∃ b,
      statusTerminal b ∧ hostMove .readStatus s = { s with reply := some (.status b) })

/-- 44_host_operations.md R177, R183: an accepted `HostRun` starts a run with fresh execution state on the world as it
stands; with a validity flag false it gives back STATE_NOT_VALID and changes nothing of the block. -/
def Obligations.RunStartsAFreshExecution : Prop :=
  ∀ (s : State) (entry : Pc),
    (s.bytecodeValid = true → s.worldValid = true → hostMove (.run entry) s =
      { s with
        shortMask := 1, status := 1, pc := entry, callStack := [], repeatStack := [], curRepeat := none, depth := 0,
        busy := true, statusWritten := true }) ∧
    (s.bytecodeValid = false ∨ s.worldValid = false →
      hostMove (.run entry) s = { s with reply := some (.status 6) })

/-- 44_host_operations.md R178: the short-circuit is always enabled; it clears the mask and nothing else, twice is once,
and a run started after it is not affected. -/
def Obligations.ShortCircuitIsALevel : Prop :=
  ∀ (s : State),
    hostEnabled .shortCircuit s = true ∧
    hostMove .shortCircuit s = { s with shortMask := 0 } ∧
    hostMove .shortCircuit (hostMove .shortCircuit s) = hostMove .shortCircuit s ∧
    ∀ entry, s.bytecodeValid = true → s.worldValid = true →
      hostMove (.run entry) (hostMove .shortCircuit s) = hostMove (.run entry) s

/-- 10_state.md section 6 (after R37): once a run has ended, nothing that either agent does tells apart two states that
differ only in what the run left in its execution state, and the next run starts from the same state in both (log
entry 8: what it leaves there is the model's choice, and this says no observation rests on it). -/
def Obligations.NextRunForgetsTheLast : Prop :=
  ∀ (s u t : State), s.busy = false → SameButExecution s u → step s = .next t →
    ∃ v, step u = .next v ∧ SameButExecution t v ∧ (t.busy = true → v = t)

/-- 60_exceptions.md R205: a recorded fault stays until reset; until then the interpreter has no step, nothing is
published, `busy` and the world keep their values, and two host operations besides reset are enabled. -/
def Obligations.FaultIsSticky : Prop :=
  ∀ (s : State) (c : Cause), s.fault = some c →
    (∀ t, interpreterTurn s ≠ .next t) ∧
    (∀ op, hostEnabled op s = true ↔ op = .reset ∨ op = .shortCircuit ∨ op = .readStatus) ∧
    (∀ t, step s = .next t → (∀ rest, s.agenda ≠ .host .reset :: rest) →
      t.fault = some c ∧ t.status = s.status ∧ t.busy = s.busy ∧ SameWorld s t)
end

