-- ==== Sys2Proof/Laws/Decode.lean ====
section
/-! SUPPORT. The tables and fields of the encoding, once: each lookup undoes its table, and each field and operand is
the arithmetic 30_encoding.md R84 to R86 give it. -/
namespace Sys2Proof

/-! ## Tables -/

@[simp] theorem tagOf_tagNumber (t : Tag) : tagOf (Config.tagNumber t) = some t := by cases t <;> decide

@[simp] theorem condOf_condNumber (c : Cond) : condOf (Config.condNumber c) = c := by cases c <;> decide

@[simp] theorem condNumber_condOf (c : BitVec 3) : Config.condNumber (condOf c) = c := by
  revert c
  decide

theorem tagNumber_of_tagOf {c : BitVec 4} {t : Tag} (h : tagOf c = some t) : Config.tagNumber t = c := by
  revert c
  cases t <;> decide

/-- 30_encoding.md R89: the tags 9 to 15, and only they, name nothing. -/
theorem tagOf_eq_none {c : BitVec 4} : tagOf c = none ↔ 9 ≤ c.toNat := by
  revert c
  decide

/-! ## The head byte -/

@[simp] theorem headTag_encodeHead (t : Tag) (c : Cond) (v : Bool) :
    headTag (encodeHead t c v) = Config.tagNumber t := by
  cases t <;> cases c <;> cases v <;> decide

@[simp] theorem headCond_encodeHead (t : Tag) (c : Cond) (v : Bool) :
    headCond (encodeHead t c v) = Config.condNumber c := by
  cases t <;> cases c <;> cases v <;> decide

@[simp] theorem headInv_encodeHead (t : Tag) (c : Cond) (v : Bool) :
    headInv (encodeHead t c v) = BitVec.ofBool v := by
  cases t <;> cases c <;> cases v <;> decide

theorem headTag_toNat (head : Byte) : (headTag head).toNat = head.toNat % 16 := by
  simp [headTag, Config.tagLow, BitVec.extractLsb'_toNat]

theorem headCond_toNat (head : Byte) : (headCond head).toNat = head.toNat / 16 % 8 := by
  simp [headCond, Config.condLow, BitVec.extractLsb'_toNat, Nat.shiftRight_eq_div_pow]

theorem headInv_toNat (head : Byte) : (headInv head).toNat = head.toNat / 128 := by
  simp only [headInv, Config.invLow, BitVec.extractLsb'_toNat, Nat.shiftRight_eq_div_pow]
  omega

/-- A head byte is its three fields. -/
theorem eq_encodeHead {head : Byte} {t : Tag} {c : Cond} {v : Bool} (ht : headTag head = Config.tagNumber t)
    (hc : headCond head = Config.condNumber c) (hv : headInv head = BitVec.ofBool v) : head = encodeHead t c v := by
  unfold encodeHead
  rw [← ht, ← hc, ← hv]
  clear ht hc hv
  revert head
  decide

/-! ## Operands -/

/-- An offset inside the image is advanced without wrapping (40_fetch_dispatch.md R111). -/
theorem pc_add_toNat {w : Pc} {n : Nat} (h : w.toNat + n < 2 ^ 32) : (w + BitVec.ofNat _ n).toNat = w.toNat + n := by
  bv_omega

/-- One iteration fewer (43_repeat.md R162). -/
theorem count_sub_one {c : Count} (h : c ≠ 0) : (c - 1).toNat + 1 = c.toNat := by
  have h0 : c.toNat ≠ 0 := fun e => h (BitVec.eq_of_toNat_eq e)
  bv_omega

/-- The order of the bytes of a target, lowest address first (30_encoding.md R82, R85). -/
theorem targetBytes_eq (w : Pc) :
    targetBytes w = [w.extractLsb' 0 8, w.extractLsb' 8 8, w.extractLsb' 16 8, w.extractLsb' 24 8] := rfl

/-- The order of the bytes of a count, lowest address first (30_encoding.md R83, R86). -/
theorem countBytes_eq (c : Count) : countBytes c = [c.extractLsb' 0 8, c.extractLsb' 8 8] := rfl

/-- 30_encoding.md R85: `target = b[0] + 256*b[1] + 65536*b[2] + 16777216*b[3]`. -/
theorem joinTarget_toNat (b0 b1 b2 b3 : Byte) :
    (joinTarget b0 b1 b2 b3).toNat = b0.toNat + 256 * b1.toNat + 65536 * b2.toNat + 16777216 * b3.toNat := by
  have join : ∀ {n : Nat} (x : BitVec n) (y : Byte), (x ++ y).toNat = 256 * x.toNat + y.toNat := fun x y => by
    rw [BitVec.toNat_append, ← Nat.shiftLeft_add_eq_or_of_lt y.isLt, Nat.shiftLeft_eq]
    omega
  simp only [joinTarget, Config.byteOrder]
  rw [join, join, join]
  omega

/-- 30_encoding.md R86: `count = c[0] + 256*c[1]`. -/
theorem joinCount_toNat (b0 b1 : Byte) : (joinCount b0 b1).toNat = b0.toNat + 256 * b1.toNat := by
  simp only [joinCount, Config.byteOrder]
  rw [BitVec.toNat_append, ← Nat.shiftLeft_add_eq_or_of_lt b0.isLt, Nat.shiftLeft_eq]
  omega

end Sys2Proof
end

