-- ==== Sys2Proof/Laws/Memory.lean ====
section
/-! SUPPORT. Memory: reading what was written, leaving the rest alone, and the canonical form kept by every operation. -/
namespace Sys2Proof.Machine

/-! ## Reading -/

@[simp] theorem Memory.read_nil (a : Nat) : Memory.read [] a = Memory.unlisted := rfl

@[simp] theorem Memory.read_cons_same (k : Nat) (b : Byte) (m : Memory) : Memory.read ((k, b) :: m) k = b := by
  simp [Memory.read]

theorem Memory.read_cons_other {a k : Nat} (b : Byte) (m : Memory) (h : a ≠ k) :
    Memory.read ((k, b) :: m) a = Memory.read m a := by
  simp [Memory.read, h]

theorem Memory.read_of_not_mem {m : Memory} {a : Nat} (h : ∀ c ∈ m, c.1 ≠ a) : m.read a = Memory.unlisted := by
  induction m with
  | nil => rfl
  | cons c m ih =>
    rw [Memory.read_cons_other _ _ (h c (by simp)).symm]
    exact ih fun c' hc' => h c' (by simp [hc'])

/-- `Memory.cons` at an address: the value put there, if nothing above it is at that address. -/
theorem Memory.read_consAt_same {a : Nat} (v : Byte) {m : Memory} (h : ∀ c ∈ m, c.1 ≠ a) :
    (Memory.cons a v m).read a = v := by
  unfold Memory.cons
  split
  · next hv => rw [Memory.read_of_not_mem h, hv]
  · simp

theorem Memory.read_consAt_other {a b : Nat} (v : Byte) (m : Memory) (h : b ≠ a) :
    (Memory.cons a v m).read b = m.read b := by
  unfold Memory.cons
  split
  · rfl
  · exact Memory.read_cons_other _ _ h

/-! ## Addresses -/

theorem Memory.mem_cons {a : Nat} {v : Byte} {m : Memory} {c : Host.Cell} (h : c ∈ Memory.cons a v m) :
    c = (a, v) ∨ c ∈ m := by
  unfold Memory.cons at h
  split at h
  · exact .inr h
  · simpa using h

theorem Memory.mem_write {m : Memory} {a : Nat} {v : Byte} {c : Host.Cell} (h : c ∈ m.write a v) :
    c = (a, v) ∨ c ∈ m := by
  induction m with
  | nil => exact Memory.mem_cons h
  | cons e m ih =>
    simp only [Memory.write] at h
    split at h
    · exact Memory.mem_cons h
    split at h
    · rcases Memory.mem_cons h with h | h
      · exact .inl h
      · exact .inr (by simp [h])
    · rcases List.mem_cons.1 h with h | h
      · exact .inr (by simp [h])
      · rcases ih h with h | h
        · exact .inl h
        · exact .inr (by simp [h])

/-! ## The canonical form -/

theorem Memory.wf_nil : Memory.wf [] := by simp [Memory.wf]

theorem Memory.wf_of_cons {k : Nat} {b : Byte} {m : Memory} (h : Memory.wf ((k, b) :: m)) :
    Memory.wf m ∧ b ≠ Memory.unlisted ∧ ∀ c ∈ m, k < c.1 := by
  simp only [Memory.wf, List.map_cons, List.pairwise_cons, List.mem_cons, List.mem_map] at h
  exact ⟨⟨h.1.2, fun c hc => h.2 c (.inr hc)⟩, h.2 (k, b) (.inl rfl), fun c hc => h.1.1 c.1 ⟨c, hc, rfl⟩⟩

theorem Memory.cons_wf {a : Nat} (v : Byte) {m : Memory} (h : m.wf) (ha : ∀ c ∈ m, a < c.1) :
    (Memory.cons a v m).wf := by
  unfold Memory.cons
  split
  · exact h
  · next hv =>
    refine ⟨?_, ?_⟩
    · simp only [List.map_cons, List.pairwise_cons, List.mem_map]
      exact ⟨fun b hb => by obtain ⟨c, hc, rfl⟩ := hb; exact ha c hc, h.1⟩
    · intro c hc
      rcases List.mem_cons.1 hc with rfl | hc
      · exact hv
      · exact h.2 c hc

theorem Memory.write_wf {m : Memory} (h : m.wf) (a : Nat) (v : Byte) : (m.write a v).wf := by
  induction m with
  | nil => exact Memory.cons_wf v h (by simp)
  | cons e m ih =>
    obtain ⟨k, b⟩ := e
    obtain ⟨hm, hb, hk⟩ := Memory.wf_of_cons h
    simp only [Memory.write]
    split
    · next ha =>
      refine Memory.cons_wf v h fun c hc => ?_
      rcases List.mem_cons.1 hc with rfl | hc
      · exact ha
      · exact Nat.lt_trans ha (hk c hc)
    split
    · next ha => exact Memory.cons_wf v hm (ha ▸ hk)
    · next hlt hne =>
      have hw := ih hm
      refine ⟨?_, ?_⟩
      · simp only [List.map_cons, List.pairwise_cons, List.mem_map]
        refine ⟨fun x hx => ?_, hw.1⟩
        obtain ⟨c, hc, rfl⟩ := hx
        rcases Memory.mem_write hc with rfl | hc
        · simp only; omega
        · exact hk c hc
      · intro c hc
        rcases List.mem_cons.1 hc with rfl | hc
        · exact hb
        · exact hw.2 c hc

theorem Memory.mem_ofBytesFrom {bytes : List Byte} {a : Nat} {c : Host.Cell}
    (h : c ∈ Memory.ofBytesFrom a bytes) : a ≤ c.1 ∧ c.1 < a + bytes.length := by
  induction bytes generalizing a with
  | nil => simp [Memory.ofBytesFrom] at h
  | cons b bytes ih =>
    simp only [List.length_cons]
    rcases Memory.mem_cons h with rfl | h
    · simp only; omega
    · have := ih h; omega

theorem Memory.ofBytesFrom_wf (bytes : List Byte) (a : Nat) : (Memory.ofBytesFrom a bytes).wf := by
  induction bytes generalizing a with
  | nil => exact Memory.wf_nil
  | cons b bytes ih =>
    exact Memory.cons_wf b (ih _) fun c hc => by have := Memory.mem_ofBytesFrom hc; omega

theorem Memory.ofBytes_wf (bytes : List Byte) : (Memory.ofBytes bytes).wf := Memory.ofBytesFrom_wf bytes 0

/-! ## Reading after writing -/

theorem Memory.read_write_other (m : Memory) {a b : Nat} (v : Byte) (h : b ≠ a) :
    (m.write a v).read b = m.read b := by
  induction m with
  | nil => exact Memory.read_consAt_other v [] h
  | cons e m ih =>
    obtain ⟨k, w⟩ := e
    simp only [Memory.write]
    split
    · exact Memory.read_consAt_other v _ h
    split
    · next hk => rw [Memory.read_consAt_other v _ h, Memory.read_cons_other _ _ (hk ▸ h)]
    · by_cases hk : b = k
      · subst hk; simp
      · rw [Memory.read_cons_other _ _ hk, Memory.read_cons_other _ _ hk, ih]

theorem Memory.read_write_same {m : Memory} (h : m.wf) (a : Nat) (v : Byte) : (m.write a v).read a = v := by
  induction m with
  | nil => exact Memory.read_consAt_same v (by simp)
  | cons e m ih =>
    obtain ⟨k, w⟩ := e
    obtain ⟨hm, -, hk⟩ := Memory.wf_of_cons h
    simp only [Memory.write]
    split
    · next ha =>
      refine Memory.read_consAt_same v fun c hc => ?_
      rcases List.mem_cons.1 hc with rfl | hc
      · exact Nat.ne_of_gt ha
      · have := hk c hc; omega
    split
    · next ha =>
      subst ha
      exact Memory.read_consAt_same v fun c hc => Nat.ne_of_gt (hk c hc)
    · next hne => rw [Memory.read_cons_other _ _ hne, ih hm]

theorem Memory.read_ofBytesFrom (bytes : List Byte) (a k : Nat) :
    (Memory.ofBytesFrom a bytes).read (a + k) = bytes.getD k Memory.unlisted := by
  induction bytes generalizing a k with
  | nil => simp [Memory.ofBytesFrom]
  | cons b bytes ih =>
    cases k with
    | zero =>
      simp only [Memory.ofBytesFrom, Nat.add_zero, List.getD_cons_zero]
      exact Memory.read_consAt_same b fun c hc => by have := Memory.mem_ofBytesFrom hc; omega
    | succ k =>
      simp only [Memory.ofBytesFrom, List.getD_cons_succ]
      rw [Memory.read_consAt_other _ _ (by omega), ← ih (a + 1) k, Nat.add_right_comm a 1 k, Nat.add_assoc]

theorem Memory.read_ofBytes (bytes : List Byte) (k : Nat) :
    (Memory.ofBytes bytes).read k = bytes.getD k Memory.unlisted := by
  simpa [Memory.ofBytes] using Memory.read_ofBytesFrom bytes 0 k

/-- Equal memories are equal data: the canonical form leaves one list for each contents. -/
theorem Memory.ext_of_read {m n : Memory} (hm : m.wf) (hn : n.wf) (h : ∀ a, m.read a = n.read a) : m = n := by
  induction m generalizing n with
  | nil =>
    cases n with
    | nil => rfl
    | cons e n =>
      obtain ⟨k, b⟩ := e
      obtain ⟨-, hb, -⟩ := Memory.wf_of_cons hn
      exact absurd (by simpa using (h k).symm) hb
  | cons e m ih =>
    obtain ⟨k, b⟩ := e
    obtain ⟨hm', hb, hk⟩ := Memory.wf_of_cons hm
    cases n with
    | nil => exact absurd (by simpa using h k) hb
    | cons e' n =>
      obtain ⟨k', b'⟩ := e'
      obtain ⟨hn', hb', hk'⟩ := Memory.wf_of_cons hn
      have low : ∀ {j : Nat} {p : Memory}, (∀ c ∈ p, j < c.1) → p.read j = Memory.unlisted := fun hp =>
        Memory.read_of_not_mem fun c hc => Nat.ne_of_gt (hp c hc)
      have hkk : k = k' := by
        rcases Nat.lt_trichotomy k k' with hlt | heq | hgt
        · refine absurd ?_ hb
          have := h k
          rwa [Memory.read_cons_same, Memory.read_cons_other _ _ (Nat.ne_of_lt hlt),
            low fun c hc => Nat.lt_trans hlt (hk' c hc)] at this
        · exact heq
        · refine absurd ?_ hb'
          have := (h k').symm
          rwa [Memory.read_cons_same, Memory.read_cons_other _ _ (Nat.ne_of_lt hgt),
            low fun c hc => Nat.lt_trans hgt (hk c hc)] at this
      subst hkk
      have hbb : b = b' := by simpa using h k
      subst hbb
      congr 1
      refine ih hm' hn' fun a => ?_
      by_cases ha : a = k
      · subst ha; rw [low hk, low hk']
      · simpa [Memory.read_cons_other _ _ ha] using h a

/-! ## The grid's operations on memory -/

theorem setCellValue_wf {g : Memory} (h : g.wf) (x y : Nat) (v : Nibble) : (setCellValue g x y v).wf :=
  Memory.write_wf h _ _

theorem setCellValue_read_other (g : Memory) {x y a : Nat} (v : Nibble) (h : a ≠ cellAddress x y) :
    (setCellValue g x y v).read a = g.read a :=
  Memory.read_write_other g _ h

theorem setCellValue_read_same {g : Memory} (h : g.wf) (x y : Nat) (v : Nibble) :
    (setCellValue g x y v).read (cellAddress x y) = withNibble x (g.read (cellAddress x y)) v :=
  Memory.read_write_same h _ _

end Sys2Proof.Machine
end

