-- ==== Sys2Proof/Laws/State.lean ====
section
/-! SUPPORT. For every named update of the state, one lemma per field: what it is afterwards. -/
namespace Sys2Proof.Machine

@[simp] theorem terminate_px (code : Status) (s : State) : (terminate code s).px = s.px := rfl
@[simp] theorem terminate_py (code : Status) (s : State) : (terminate code s).py = s.py := rfl
@[simp] theorem terminate_d (code : Status) (s : State) : (terminate code s).d = s.d := rfl
@[simp] theorem terminate_hx (code : Status) (s : State) : (terminate code s).hx = s.hx := rfl
@[simp] theorem terminate_hy (code : Status) (s : State) : (terminate code s).hy = s.hy := rfl
@[simp] theorem terminate_grid (code : Status) (s : State) : (terminate code s).grid = s.grid := rfl
@[simp] theorem terminate_image (code : Status) (s : State) : (terminate code s).image = s.image := rfl
@[simp] theorem terminate_imageLen (code : Status) (s : State) : (terminate code s).imageLen = s.imageLen := rfl
@[simp] theorem terminate_bytecodeValid (code : Status) (s : State) : (terminate code s).bytecodeValid = s.bytecodeValid := rfl
@[simp] theorem terminate_worldValid (code : Status) (s : State) : (terminate code s).worldValid = s.worldValid := rfl
@[simp] theorem terminate_status (code : Status) (s : State) : (terminate code s).status = Config.statusNumber code := rfl
@[simp] theorem terminate_shortMask (code : Status) (s : State) : (terminate code s).shortMask = s.shortMask := rfl
@[simp] theorem terminate_busy (code : Status) (s : State) : (terminate code s).busy = false := rfl
@[simp] theorem terminate_pc (code : Status) (s : State) : (terminate code s).pc = s.pc := rfl
@[simp] theorem terminate_callStack (code : Status) (s : State) : (terminate code s).callStack = s.callStack := rfl
@[simp] theorem terminate_repeatStack (code : Status) (s : State) : (terminate code s).repeatStack = s.repeatStack := rfl
@[simp] theorem terminate_curRepeat (code : Status) (s : State) : (terminate code s).curRepeat = s.curRepeat := rfl
@[simp] theorem terminate_depth (code : Status) (s : State) : (terminate code s).depth = s.depth := rfl
@[simp] theorem terminate_fault (code : Status) (s : State) : (terminate code s).fault = s.fault := rfl
@[simp] theorem terminate_statusWritten (code : Status) (s : State) : (terminate code s).statusWritten = s.statusWritten := rfl
@[simp] theorem terminate_draws (code : Status) (s : State) : (terminate code s).draws = s.draws := rfl
@[simp] theorem terminate_agenda (code : Status) (s : State) : (terminate code s).agenda = s.agenda := rfl
@[simp] theorem terminate_reply (code : Status) (s : State) : (terminate code s).reply = s.reply := rfl

@[simp] theorem raiseFault_px (c : Cause) (s : State) : (raiseFault c s).px = s.px := rfl
@[simp] theorem raiseFault_py (c : Cause) (s : State) : (raiseFault c s).py = s.py := rfl
@[simp] theorem raiseFault_d (c : Cause) (s : State) : (raiseFault c s).d = s.d := rfl
@[simp] theorem raiseFault_hx (c : Cause) (s : State) : (raiseFault c s).hx = s.hx := rfl
@[simp] theorem raiseFault_hy (c : Cause) (s : State) : (raiseFault c s).hy = s.hy := rfl
@[simp] theorem raiseFault_grid (c : Cause) (s : State) : (raiseFault c s).grid = s.grid := rfl
@[simp] theorem raiseFault_image (c : Cause) (s : State) : (raiseFault c s).image = s.image := rfl
@[simp] theorem raiseFault_imageLen (c : Cause) (s : State) : (raiseFault c s).imageLen = s.imageLen := rfl
@[simp] theorem raiseFault_bytecodeValid (c : Cause) (s : State) : (raiseFault c s).bytecodeValid = s.bytecodeValid := rfl
@[simp] theorem raiseFault_worldValid (c : Cause) (s : State) : (raiseFault c s).worldValid = s.worldValid := rfl
@[simp] theorem raiseFault_status (c : Cause) (s : State) : (raiseFault c s).status = s.status := rfl
@[simp] theorem raiseFault_shortMask (c : Cause) (s : State) : (raiseFault c s).shortMask = s.shortMask := rfl
@[simp] theorem raiseFault_busy (c : Cause) (s : State) : (raiseFault c s).busy = s.busy := rfl
@[simp] theorem raiseFault_pc (c : Cause) (s : State) : (raiseFault c s).pc = s.pc := rfl
@[simp] theorem raiseFault_callStack (c : Cause) (s : State) : (raiseFault c s).callStack = s.callStack := rfl
@[simp] theorem raiseFault_repeatStack (c : Cause) (s : State) : (raiseFault c s).repeatStack = s.repeatStack := rfl
@[simp] theorem raiseFault_curRepeat (c : Cause) (s : State) : (raiseFault c s).curRepeat = s.curRepeat := rfl
@[simp] theorem raiseFault_depth (c : Cause) (s : State) : (raiseFault c s).depth = s.depth := rfl
@[simp] theorem raiseFault_fault (c : Cause) (s : State) : (raiseFault c s).fault = some c := rfl
@[simp] theorem raiseFault_statusWritten (c : Cause) (s : State) : (raiseFault c s).statusWritten = s.statusWritten := rfl
@[simp] theorem raiseFault_draws (c : Cause) (s : State) : (raiseFault c s).draws = s.draws := rfl
@[simp] theorem raiseFault_agenda (c : Cause) (s : State) : (raiseFault c s).agenda = s.agenda := rfl
@[simp] theorem raiseFault_reply (c : Cause) (s : State) : (raiseFault c s).reply = s.reply := rfl

@[simp] theorem advance_px (n : Nat) (s : State) : (advance n s).px = s.px := rfl
@[simp] theorem advance_py (n : Nat) (s : State) : (advance n s).py = s.py := rfl
@[simp] theorem advance_d (n : Nat) (s : State) : (advance n s).d = s.d := rfl
@[simp] theorem advance_hx (n : Nat) (s : State) : (advance n s).hx = s.hx := rfl
@[simp] theorem advance_hy (n : Nat) (s : State) : (advance n s).hy = s.hy := rfl
@[simp] theorem advance_grid (n : Nat) (s : State) : (advance n s).grid = s.grid := rfl
@[simp] theorem advance_image (n : Nat) (s : State) : (advance n s).image = s.image := rfl
@[simp] theorem advance_imageLen (n : Nat) (s : State) : (advance n s).imageLen = s.imageLen := rfl
@[simp] theorem advance_bytecodeValid (n : Nat) (s : State) : (advance n s).bytecodeValid = s.bytecodeValid := rfl
@[simp] theorem advance_worldValid (n : Nat) (s : State) : (advance n s).worldValid = s.worldValid := rfl
@[simp] theorem advance_status (n : Nat) (s : State) : (advance n s).status = s.status := rfl
@[simp] theorem advance_shortMask (n : Nat) (s : State) : (advance n s).shortMask = s.shortMask := rfl
@[simp] theorem advance_busy (n : Nat) (s : State) : (advance n s).busy = s.busy := rfl
@[simp] theorem advance_pc (n : Nat) (s : State) : (advance n s).pc = s.pc + BitVec.ofNat 32 n := rfl
@[simp] theorem advance_callStack (n : Nat) (s : State) : (advance n s).callStack = s.callStack := rfl
@[simp] theorem advance_repeatStack (n : Nat) (s : State) : (advance n s).repeatStack = s.repeatStack := rfl
@[simp] theorem advance_curRepeat (n : Nat) (s : State) : (advance n s).curRepeat = s.curRepeat := rfl
@[simp] theorem advance_depth (n : Nat) (s : State) : (advance n s).depth = s.depth := rfl
@[simp] theorem advance_fault (n : Nat) (s : State) : (advance n s).fault = s.fault := rfl
@[simp] theorem advance_statusWritten (n : Nat) (s : State) : (advance n s).statusWritten = s.statusWritten := rfl
@[simp] theorem advance_draws (n : Nat) (s : State) : (advance n s).draws = s.draws := rfl
@[simp] theorem advance_agenda (n : Nat) (s : State) : (advance n s).agenda = s.agenda := rfl
@[simp] theorem advance_reply (n : Nat) (s : State) : (advance n s).reply = s.reply := rfl

@[simp] theorem jump_px (t : Pc) (s : State) : (jump t s).px = s.px := rfl
@[simp] theorem jump_py (t : Pc) (s : State) : (jump t s).py = s.py := rfl
@[simp] theorem jump_d (t : Pc) (s : State) : (jump t s).d = s.d := rfl
@[simp] theorem jump_hx (t : Pc) (s : State) : (jump t s).hx = s.hx := rfl
@[simp] theorem jump_hy (t : Pc) (s : State) : (jump t s).hy = s.hy := rfl
@[simp] theorem jump_grid (t : Pc) (s : State) : (jump t s).grid = s.grid := rfl
@[simp] theorem jump_image (t : Pc) (s : State) : (jump t s).image = s.image := rfl
@[simp] theorem jump_imageLen (t : Pc) (s : State) : (jump t s).imageLen = s.imageLen := rfl
@[simp] theorem jump_bytecodeValid (t : Pc) (s : State) : (jump t s).bytecodeValid = s.bytecodeValid := rfl
@[simp] theorem jump_worldValid (t : Pc) (s : State) : (jump t s).worldValid = s.worldValid := rfl
@[simp] theorem jump_status (t : Pc) (s : State) : (jump t s).status = s.status := rfl
@[simp] theorem jump_shortMask (t : Pc) (s : State) : (jump t s).shortMask = s.shortMask := rfl
@[simp] theorem jump_busy (t : Pc) (s : State) : (jump t s).busy = s.busy := rfl
@[simp] theorem jump_pc (t : Pc) (s : State) : (jump t s).pc = t := rfl
@[simp] theorem jump_callStack (t : Pc) (s : State) : (jump t s).callStack = s.callStack := rfl
@[simp] theorem jump_repeatStack (t : Pc) (s : State) : (jump t s).repeatStack = s.repeatStack := rfl
@[simp] theorem jump_curRepeat (t : Pc) (s : State) : (jump t s).curRepeat = s.curRepeat := rfl
@[simp] theorem jump_depth (t : Pc) (s : State) : (jump t s).depth = s.depth := rfl
@[simp] theorem jump_fault (t : Pc) (s : State) : (jump t s).fault = s.fault := rfl
@[simp] theorem jump_statusWritten (t : Pc) (s : State) : (jump t s).statusWritten = s.statusWritten := rfl
@[simp] theorem jump_draws (t : Pc) (s : State) : (jump t s).draws = s.draws := rfl
@[simp] theorem jump_agenda (t : Pc) (s : State) : (jump t s).agenda = s.agenda := rfl
@[simp] theorem jump_reply (t : Pc) (s : State) : (jump t s).reply = s.reply := rfl

@[simp] theorem moveRobot_px (x y : Word) (s : State) : (moveRobot x y s).px = x := rfl
@[simp] theorem moveRobot_py (x y : Word) (s : State) : (moveRobot x y s).py = y := rfl
@[simp] theorem moveRobot_d (x y : Word) (s : State) : (moveRobot x y s).d = s.d := rfl
@[simp] theorem moveRobot_hx (x y : Word) (s : State) : (moveRobot x y s).hx = s.hx := rfl
@[simp] theorem moveRobot_hy (x y : Word) (s : State) : (moveRobot x y s).hy = s.hy := rfl
@[simp] theorem moveRobot_grid (x y : Word) (s : State) : (moveRobot x y s).grid = s.grid := rfl
@[simp] theorem moveRobot_image (x y : Word) (s : State) : (moveRobot x y s).image = s.image := rfl
@[simp] theorem moveRobot_imageLen (x y : Word) (s : State) : (moveRobot x y s).imageLen = s.imageLen := rfl
@[simp] theorem moveRobot_bytecodeValid (x y : Word) (s : State) : (moveRobot x y s).bytecodeValid = s.bytecodeValid := rfl
@[simp] theorem moveRobot_worldValid (x y : Word) (s : State) : (moveRobot x y s).worldValid = s.worldValid := rfl
@[simp] theorem moveRobot_status (x y : Word) (s : State) : (moveRobot x y s).status = s.status := rfl
@[simp] theorem moveRobot_shortMask (x y : Word) (s : State) : (moveRobot x y s).shortMask = s.shortMask := rfl
@[simp] theorem moveRobot_busy (x y : Word) (s : State) : (moveRobot x y s).busy = s.busy := rfl
@[simp] theorem moveRobot_pc (x y : Word) (s : State) : (moveRobot x y s).pc = s.pc := rfl
@[simp] theorem moveRobot_callStack (x y : Word) (s : State) : (moveRobot x y s).callStack = s.callStack := rfl
@[simp] theorem moveRobot_repeatStack (x y : Word) (s : State) : (moveRobot x y s).repeatStack = s.repeatStack := rfl
@[simp] theorem moveRobot_curRepeat (x y : Word) (s : State) : (moveRobot x y s).curRepeat = s.curRepeat := rfl
@[simp] theorem moveRobot_depth (x y : Word) (s : State) : (moveRobot x y s).depth = s.depth := rfl
@[simp] theorem moveRobot_fault (x y : Word) (s : State) : (moveRobot x y s).fault = s.fault := rfl
@[simp] theorem moveRobot_statusWritten (x y : Word) (s : State) : (moveRobot x y s).statusWritten = s.statusWritten := rfl
@[simp] theorem moveRobot_draws (x y : Word) (s : State) : (moveRobot x y s).draws = s.draws := rfl
@[simp] theorem moveRobot_agenda (x y : Word) (s : State) : (moveRobot x y s).agenda = s.agenda := rfl
@[simp] theorem moveRobot_reply (x y : Word) (s : State) : (moveRobot x y s).reply = s.reply := rfl

@[simp] theorem turnLeft_px (s : State) : (turnLeft s).px = s.px := rfl
@[simp] theorem turnLeft_py (s : State) : (turnLeft s).py = s.py := rfl
@[simp] theorem turnLeft_d (s : State) : (turnLeft s).d = s.d + 1 := rfl
@[simp] theorem turnLeft_hx (s : State) : (turnLeft s).hx = s.hx := rfl
@[simp] theorem turnLeft_hy (s : State) : (turnLeft s).hy = s.hy := rfl
@[simp] theorem turnLeft_grid (s : State) : (turnLeft s).grid = s.grid := rfl
@[simp] theorem turnLeft_image (s : State) : (turnLeft s).image = s.image := rfl
@[simp] theorem turnLeft_imageLen (s : State) : (turnLeft s).imageLen = s.imageLen := rfl
@[simp] theorem turnLeft_bytecodeValid (s : State) : (turnLeft s).bytecodeValid = s.bytecodeValid := rfl
@[simp] theorem turnLeft_worldValid (s : State) : (turnLeft s).worldValid = s.worldValid := rfl
@[simp] theorem turnLeft_status (s : State) : (turnLeft s).status = s.status := rfl
@[simp] theorem turnLeft_shortMask (s : State) : (turnLeft s).shortMask = s.shortMask := rfl
@[simp] theorem turnLeft_busy (s : State) : (turnLeft s).busy = s.busy := rfl
@[simp] theorem turnLeft_pc (s : State) : (turnLeft s).pc = s.pc := rfl
@[simp] theorem turnLeft_callStack (s : State) : (turnLeft s).callStack = s.callStack := rfl
@[simp] theorem turnLeft_repeatStack (s : State) : (turnLeft s).repeatStack = s.repeatStack := rfl
@[simp] theorem turnLeft_curRepeat (s : State) : (turnLeft s).curRepeat = s.curRepeat := rfl
@[simp] theorem turnLeft_depth (s : State) : (turnLeft s).depth = s.depth := rfl
@[simp] theorem turnLeft_fault (s : State) : (turnLeft s).fault = s.fault := rfl
@[simp] theorem turnLeft_statusWritten (s : State) : (turnLeft s).statusWritten = s.statusWritten := rfl
@[simp] theorem turnLeft_draws (s : State) : (turnLeft s).draws = s.draws := rfl
@[simp] theorem turnLeft_agenda (s : State) : (turnLeft s).agenda = s.agenda := rfl
@[simp] theorem turnLeft_reply (s : State) : (turnLeft s).reply = s.reply := rfl

@[simp] theorem withGrid_px (g : Memory) (s : State) : (withGrid g s).px = s.px := rfl
@[simp] theorem withGrid_py (g : Memory) (s : State) : (withGrid g s).py = s.py := rfl
@[simp] theorem withGrid_d (g : Memory) (s : State) : (withGrid g s).d = s.d := rfl
@[simp] theorem withGrid_hx (g : Memory) (s : State) : (withGrid g s).hx = s.hx := rfl
@[simp] theorem withGrid_hy (g : Memory) (s : State) : (withGrid g s).hy = s.hy := rfl
@[simp] theorem withGrid_grid (g : Memory) (s : State) : (withGrid g s).grid = g := rfl
@[simp] theorem withGrid_image (g : Memory) (s : State) : (withGrid g s).image = s.image := rfl
@[simp] theorem withGrid_imageLen (g : Memory) (s : State) : (withGrid g s).imageLen = s.imageLen := rfl
@[simp] theorem withGrid_bytecodeValid (g : Memory) (s : State) : (withGrid g s).bytecodeValid = s.bytecodeValid := rfl
@[simp] theorem withGrid_worldValid (g : Memory) (s : State) : (withGrid g s).worldValid = s.worldValid := rfl
@[simp] theorem withGrid_status (g : Memory) (s : State) : (withGrid g s).status = s.status := rfl
@[simp] theorem withGrid_shortMask (g : Memory) (s : State) : (withGrid g s).shortMask = s.shortMask := rfl
@[simp] theorem withGrid_busy (g : Memory) (s : State) : (withGrid g s).busy = s.busy := rfl
@[simp] theorem withGrid_pc (g : Memory) (s : State) : (withGrid g s).pc = s.pc := rfl
@[simp] theorem withGrid_callStack (g : Memory) (s : State) : (withGrid g s).callStack = s.callStack := rfl
@[simp] theorem withGrid_repeatStack (g : Memory) (s : State) : (withGrid g s).repeatStack = s.repeatStack := rfl
@[simp] theorem withGrid_curRepeat (g : Memory) (s : State) : (withGrid g s).curRepeat = s.curRepeat := rfl
@[simp] theorem withGrid_depth (g : Memory) (s : State) : (withGrid g s).depth = s.depth := rfl
@[simp] theorem withGrid_fault (g : Memory) (s : State) : (withGrid g s).fault = s.fault := rfl
@[simp] theorem withGrid_statusWritten (g : Memory) (s : State) : (withGrid g s).statusWritten = s.statusWritten := rfl
@[simp] theorem withGrid_draws (g : Memory) (s : State) : (withGrid g s).draws = s.draws := rfl
@[simp] theorem withGrid_agenda (g : Memory) (s : State) : (withGrid g s).agenda = s.agenda := rfl
@[simp] theorem withGrid_reply (g : Memory) (s : State) : (withGrid g s).reply = s.reply := rfl

@[simp] theorem spendDraw_px (s : State) : (spendDraw s).px = s.px := rfl
@[simp] theorem spendDraw_py (s : State) : (spendDraw s).py = s.py := rfl
@[simp] theorem spendDraw_d (s : State) : (spendDraw s).d = s.d := rfl
@[simp] theorem spendDraw_hx (s : State) : (spendDraw s).hx = s.hx := rfl
@[simp] theorem spendDraw_hy (s : State) : (spendDraw s).hy = s.hy := rfl
@[simp] theorem spendDraw_grid (s : State) : (spendDraw s).grid = s.grid := rfl
@[simp] theorem spendDraw_image (s : State) : (spendDraw s).image = s.image := rfl
@[simp] theorem spendDraw_imageLen (s : State) : (spendDraw s).imageLen = s.imageLen := rfl
@[simp] theorem spendDraw_bytecodeValid (s : State) : (spendDraw s).bytecodeValid = s.bytecodeValid := rfl
@[simp] theorem spendDraw_worldValid (s : State) : (spendDraw s).worldValid = s.worldValid := rfl
@[simp] theorem spendDraw_status (s : State) : (spendDraw s).status = s.status := rfl
@[simp] theorem spendDraw_shortMask (s : State) : (spendDraw s).shortMask = s.shortMask := rfl
@[simp] theorem spendDraw_busy (s : State) : (spendDraw s).busy = s.busy := rfl
@[simp] theorem spendDraw_pc (s : State) : (spendDraw s).pc = s.pc := rfl
@[simp] theorem spendDraw_callStack (s : State) : (spendDraw s).callStack = s.callStack := rfl
@[simp] theorem spendDraw_repeatStack (s : State) : (spendDraw s).repeatStack = s.repeatStack := rfl
@[simp] theorem spendDraw_curRepeat (s : State) : (spendDraw s).curRepeat = s.curRepeat := rfl
@[simp] theorem spendDraw_depth (s : State) : (spendDraw s).depth = s.depth := rfl
@[simp] theorem spendDraw_fault (s : State) : (spendDraw s).fault = s.fault := rfl
@[simp] theorem spendDraw_statusWritten (s : State) : (spendDraw s).statusWritten = s.statusWritten := rfl
@[simp] theorem spendDraw_draws (s : State) : (spendDraw s).draws = s.draws + 1 := rfl
@[simp] theorem spendDraw_agenda (s : State) : (spendDraw s).agenda = s.agenda := rfl
@[simp] theorem spendDraw_reply (s : State) : (spendDraw s).reply = s.reply := rfl

@[simp] theorem pushCall_px (r : Pc) (s : State) : (pushCall r s).px = s.px := rfl
@[simp] theorem pushCall_py (r : Pc) (s : State) : (pushCall r s).py = s.py := rfl
@[simp] theorem pushCall_d (r : Pc) (s : State) : (pushCall r s).d = s.d := rfl
@[simp] theorem pushCall_hx (r : Pc) (s : State) : (pushCall r s).hx = s.hx := rfl
@[simp] theorem pushCall_hy (r : Pc) (s : State) : (pushCall r s).hy = s.hy := rfl
@[simp] theorem pushCall_grid (r : Pc) (s : State) : (pushCall r s).grid = s.grid := rfl
@[simp] theorem pushCall_image (r : Pc) (s : State) : (pushCall r s).image = s.image := rfl
@[simp] theorem pushCall_imageLen (r : Pc) (s : State) : (pushCall r s).imageLen = s.imageLen := rfl
@[simp] theorem pushCall_bytecodeValid (r : Pc) (s : State) : (pushCall r s).bytecodeValid = s.bytecodeValid := rfl
@[simp] theorem pushCall_worldValid (r : Pc) (s : State) : (pushCall r s).worldValid = s.worldValid := rfl
@[simp] theorem pushCall_status (r : Pc) (s : State) : (pushCall r s).status = s.status := rfl
@[simp] theorem pushCall_shortMask (r : Pc) (s : State) : (pushCall r s).shortMask = s.shortMask := rfl
@[simp] theorem pushCall_busy (r : Pc) (s : State) : (pushCall r s).busy = s.busy := rfl
@[simp] theorem pushCall_pc (r : Pc) (s : State) : (pushCall r s).pc = s.pc := rfl
@[simp] theorem pushCall_callStack (r : Pc) (s : State) : (pushCall r s).callStack = r :: s.callStack := rfl
@[simp] theorem pushCall_repeatStack (r : Pc) (s : State) : (pushCall r s).repeatStack = s.repeatStack := rfl
@[simp] theorem pushCall_curRepeat (r : Pc) (s : State) : (pushCall r s).curRepeat = s.curRepeat := rfl
@[simp] theorem pushCall_depth (r : Pc) (s : State) : (pushCall r s).depth = s.depth + 1 := rfl
@[simp] theorem pushCall_fault (r : Pc) (s : State) : (pushCall r s).fault = s.fault := rfl
@[simp] theorem pushCall_statusWritten (r : Pc) (s : State) : (pushCall r s).statusWritten = s.statusWritten := rfl
@[simp] theorem pushCall_draws (r : Pc) (s : State) : (pushCall r s).draws = s.draws := rfl
@[simp] theorem pushCall_agenda (r : Pc) (s : State) : (pushCall r s).agenda = s.agenda := rfl
@[simp] theorem pushCall_reply (r : Pc) (s : State) : (pushCall r s).reply = s.reply := rfl

@[simp] theorem popCall_px (s : State) : (popCall s).px = s.px := rfl
@[simp] theorem popCall_py (s : State) : (popCall s).py = s.py := rfl
@[simp] theorem popCall_d (s : State) : (popCall s).d = s.d := rfl
@[simp] theorem popCall_hx (s : State) : (popCall s).hx = s.hx := rfl
@[simp] theorem popCall_hy (s : State) : (popCall s).hy = s.hy := rfl
@[simp] theorem popCall_grid (s : State) : (popCall s).grid = s.grid := rfl
@[simp] theorem popCall_image (s : State) : (popCall s).image = s.image := rfl
@[simp] theorem popCall_imageLen (s : State) : (popCall s).imageLen = s.imageLen := rfl
@[simp] theorem popCall_bytecodeValid (s : State) : (popCall s).bytecodeValid = s.bytecodeValid := rfl
@[simp] theorem popCall_worldValid (s : State) : (popCall s).worldValid = s.worldValid := rfl
@[simp] theorem popCall_status (s : State) : (popCall s).status = s.status := rfl
@[simp] theorem popCall_shortMask (s : State) : (popCall s).shortMask = s.shortMask := rfl
@[simp] theorem popCall_busy (s : State) : (popCall s).busy = s.busy := rfl
@[simp] theorem popCall_pc (s : State) : (popCall s).pc = s.pc := rfl
@[simp] theorem popCall_callStack (s : State) : (popCall s).callStack = s.callStack.tail := rfl
@[simp] theorem popCall_repeatStack (s : State) : (popCall s).repeatStack = s.repeatStack := rfl
@[simp] theorem popCall_curRepeat (s : State) : (popCall s).curRepeat = s.curRepeat := rfl
@[simp] theorem popCall_depth (s : State) : (popCall s).depth = s.depth - 1 := rfl
@[simp] theorem popCall_fault (s : State) : (popCall s).fault = s.fault := rfl
@[simp] theorem popCall_statusWritten (s : State) : (popCall s).statusWritten = s.statusWritten := rfl
@[simp] theorem popCall_draws (s : State) : (popCall s).draws = s.draws := rfl
@[simp] theorem popCall_agenda (s : State) : (popCall s).agenda = s.agenda := rfl
@[simp] theorem popCall_reply (s : State) : (popCall s).reply = s.reply := rfl

@[simp] theorem pushRepeat_px (f : Frame) (s : State) : (pushRepeat f s).px = s.px := rfl
@[simp] theorem pushRepeat_py (f : Frame) (s : State) : (pushRepeat f s).py = s.py := rfl
@[simp] theorem pushRepeat_d (f : Frame) (s : State) : (pushRepeat f s).d = s.d := rfl
@[simp] theorem pushRepeat_hx (f : Frame) (s : State) : (pushRepeat f s).hx = s.hx := rfl
@[simp] theorem pushRepeat_hy (f : Frame) (s : State) : (pushRepeat f s).hy = s.hy := rfl
@[simp] theorem pushRepeat_grid (f : Frame) (s : State) : (pushRepeat f s).grid = s.grid := rfl
@[simp] theorem pushRepeat_image (f : Frame) (s : State) : (pushRepeat f s).image = s.image := rfl
@[simp] theorem pushRepeat_imageLen (f : Frame) (s : State) : (pushRepeat f s).imageLen = s.imageLen := rfl
@[simp] theorem pushRepeat_bytecodeValid (f : Frame) (s : State) : (pushRepeat f s).bytecodeValid = s.bytecodeValid := rfl
@[simp] theorem pushRepeat_worldValid (f : Frame) (s : State) : (pushRepeat f s).worldValid = s.worldValid := rfl
@[simp] theorem pushRepeat_status (f : Frame) (s : State) : (pushRepeat f s).status = s.status := rfl
@[simp] theorem pushRepeat_shortMask (f : Frame) (s : State) : (pushRepeat f s).shortMask = s.shortMask := rfl
@[simp] theorem pushRepeat_busy (f : Frame) (s : State) : (pushRepeat f s).busy = s.busy := rfl
@[simp] theorem pushRepeat_pc (f : Frame) (s : State) : (pushRepeat f s).pc = s.pc := rfl
@[simp] theorem pushRepeat_callStack (f : Frame) (s : State) : (pushRepeat f s).callStack = s.callStack := rfl
@[simp] theorem pushRepeat_repeatStack (f : Frame) (s : State) : (pushRepeat f s).repeatStack = s.curRepeat.toList ++ s.repeatStack := rfl
@[simp] theorem pushRepeat_curRepeat (f : Frame) (s : State) : (pushRepeat f s).curRepeat = some f := rfl
@[simp] theorem pushRepeat_depth (f : Frame) (s : State) : (pushRepeat f s).depth = s.depth + 1 := rfl
@[simp] theorem pushRepeat_fault (f : Frame) (s : State) : (pushRepeat f s).fault = s.fault := rfl
@[simp] theorem pushRepeat_statusWritten (f : Frame) (s : State) : (pushRepeat f s).statusWritten = s.statusWritten := rfl
@[simp] theorem pushRepeat_draws (f : Frame) (s : State) : (pushRepeat f s).draws = s.draws := rfl
@[simp] theorem pushRepeat_agenda (f : Frame) (s : State) : (pushRepeat f s).agenda = s.agenda := rfl
@[simp] theorem pushRepeat_reply (f : Frame) (s : State) : (pushRepeat f s).reply = s.reply := rfl

@[simp] theorem popRepeat_px (s : State) : (popRepeat s).px = s.px := rfl
@[simp] theorem popRepeat_py (s : State) : (popRepeat s).py = s.py := rfl
@[simp] theorem popRepeat_d (s : State) : (popRepeat s).d = s.d := rfl
@[simp] theorem popRepeat_hx (s : State) : (popRepeat s).hx = s.hx := rfl
@[simp] theorem popRepeat_hy (s : State) : (popRepeat s).hy = s.hy := rfl
@[simp] theorem popRepeat_grid (s : State) : (popRepeat s).grid = s.grid := rfl
@[simp] theorem popRepeat_image (s : State) : (popRepeat s).image = s.image := rfl
@[simp] theorem popRepeat_imageLen (s : State) : (popRepeat s).imageLen = s.imageLen := rfl
@[simp] theorem popRepeat_bytecodeValid (s : State) : (popRepeat s).bytecodeValid = s.bytecodeValid := rfl
@[simp] theorem popRepeat_worldValid (s : State) : (popRepeat s).worldValid = s.worldValid := rfl
@[simp] theorem popRepeat_status (s : State) : (popRepeat s).status = s.status := rfl
@[simp] theorem popRepeat_shortMask (s : State) : (popRepeat s).shortMask = s.shortMask := rfl
@[simp] theorem popRepeat_busy (s : State) : (popRepeat s).busy = s.busy := rfl
@[simp] theorem popRepeat_pc (s : State) : (popRepeat s).pc = s.pc := rfl
@[simp] theorem popRepeat_callStack (s : State) : (popRepeat s).callStack = s.callStack := rfl
@[simp] theorem popRepeat_repeatStack (s : State) : (popRepeat s).repeatStack = s.repeatStack.tail := rfl
@[simp] theorem popRepeat_curRepeat (s : State) : (popRepeat s).curRepeat = s.repeatStack.head? := rfl
@[simp] theorem popRepeat_depth (s : State) : (popRepeat s).depth = s.depth - 1 := rfl
@[simp] theorem popRepeat_fault (s : State) : (popRepeat s).fault = s.fault := rfl
@[simp] theorem popRepeat_statusWritten (s : State) : (popRepeat s).statusWritten = s.statusWritten := rfl
@[simp] theorem popRepeat_draws (s : State) : (popRepeat s).draws = s.draws := rfl
@[simp] theorem popRepeat_agenda (s : State) : (popRepeat s).agenda = s.agenda := rfl
@[simp] theorem popRepeat_reply (s : State) : (popRepeat s).reply = s.reply := rfl

@[simp] theorem setRepeat_px (f : Frame) (s : State) : (setRepeat f s).px = s.px := rfl
@[simp] theorem setRepeat_py (f : Frame) (s : State) : (setRepeat f s).py = s.py := rfl
@[simp] theorem setRepeat_d (f : Frame) (s : State) : (setRepeat f s).d = s.d := rfl
@[simp] theorem setRepeat_hx (f : Frame) (s : State) : (setRepeat f s).hx = s.hx := rfl
@[simp] theorem setRepeat_hy (f : Frame) (s : State) : (setRepeat f s).hy = s.hy := rfl
@[simp] theorem setRepeat_grid (f : Frame) (s : State) : (setRepeat f s).grid = s.grid := rfl
@[simp] theorem setRepeat_image (f : Frame) (s : State) : (setRepeat f s).image = s.image := rfl
@[simp] theorem setRepeat_imageLen (f : Frame) (s : State) : (setRepeat f s).imageLen = s.imageLen := rfl
@[simp] theorem setRepeat_bytecodeValid (f : Frame) (s : State) : (setRepeat f s).bytecodeValid = s.bytecodeValid := rfl
@[simp] theorem setRepeat_worldValid (f : Frame) (s : State) : (setRepeat f s).worldValid = s.worldValid := rfl
@[simp] theorem setRepeat_status (f : Frame) (s : State) : (setRepeat f s).status = s.status := rfl
@[simp] theorem setRepeat_shortMask (f : Frame) (s : State) : (setRepeat f s).shortMask = s.shortMask := rfl
@[simp] theorem setRepeat_busy (f : Frame) (s : State) : (setRepeat f s).busy = s.busy := rfl
@[simp] theorem setRepeat_pc (f : Frame) (s : State) : (setRepeat f s).pc = s.pc := rfl
@[simp] theorem setRepeat_callStack (f : Frame) (s : State) : (setRepeat f s).callStack = s.callStack := rfl
@[simp] theorem setRepeat_repeatStack (f : Frame) (s : State) : (setRepeat f s).repeatStack = s.repeatStack := rfl
@[simp] theorem setRepeat_curRepeat (f : Frame) (s : State) : (setRepeat f s).curRepeat = some f := rfl
@[simp] theorem setRepeat_depth (f : Frame) (s : State) : (setRepeat f s).depth = s.depth := rfl
@[simp] theorem setRepeat_fault (f : Frame) (s : State) : (setRepeat f s).fault = s.fault := rfl
@[simp] theorem setRepeat_statusWritten (f : Frame) (s : State) : (setRepeat f s).statusWritten = s.statusWritten := rfl
@[simp] theorem setRepeat_draws (f : Frame) (s : State) : (setRepeat f s).draws = s.draws := rfl
@[simp] theorem setRepeat_agenda (f : Frame) (s : State) : (setRepeat f s).agenda = s.agenda := rfl
@[simp] theorem setRepeat_reply (f : Frame) (s : State) : (setRepeat f s).reply = s.reply := rfl

@[simp] theorem popAgenda_px (s : State) : (popAgenda s).px = s.px := rfl
@[simp] theorem popAgenda_py (s : State) : (popAgenda s).py = s.py := rfl
@[simp] theorem popAgenda_d (s : State) : (popAgenda s).d = s.d := rfl
@[simp] theorem popAgenda_hx (s : State) : (popAgenda s).hx = s.hx := rfl
@[simp] theorem popAgenda_hy (s : State) : (popAgenda s).hy = s.hy := rfl
@[simp] theorem popAgenda_grid (s : State) : (popAgenda s).grid = s.grid := rfl
@[simp] theorem popAgenda_image (s : State) : (popAgenda s).image = s.image := rfl
@[simp] theorem popAgenda_imageLen (s : State) : (popAgenda s).imageLen = s.imageLen := rfl
@[simp] theorem popAgenda_bytecodeValid (s : State) : (popAgenda s).bytecodeValid = s.bytecodeValid := rfl
@[simp] theorem popAgenda_worldValid (s : State) : (popAgenda s).worldValid = s.worldValid := rfl
@[simp] theorem popAgenda_status (s : State) : (popAgenda s).status = s.status := rfl
@[simp] theorem popAgenda_shortMask (s : State) : (popAgenda s).shortMask = s.shortMask := rfl
@[simp] theorem popAgenda_busy (s : State) : (popAgenda s).busy = s.busy := rfl
@[simp] theorem popAgenda_pc (s : State) : (popAgenda s).pc = s.pc := rfl
@[simp] theorem popAgenda_callStack (s : State) : (popAgenda s).callStack = s.callStack := rfl
@[simp] theorem popAgenda_repeatStack (s : State) : (popAgenda s).repeatStack = s.repeatStack := rfl
@[simp] theorem popAgenda_curRepeat (s : State) : (popAgenda s).curRepeat = s.curRepeat := rfl
@[simp] theorem popAgenda_depth (s : State) : (popAgenda s).depth = s.depth := rfl
@[simp] theorem popAgenda_fault (s : State) : (popAgenda s).fault = s.fault := rfl
@[simp] theorem popAgenda_statusWritten (s : State) : (popAgenda s).statusWritten = s.statusWritten := rfl
@[simp] theorem popAgenda_draws (s : State) : (popAgenda s).draws = s.draws := rfl
@[simp] theorem popAgenda_agenda (s : State) : (popAgenda s).agenda = s.agenda.tail := rfl
@[simp] theorem popAgenda_reply (s : State) : (popAgenda s).reply = s.reply := rfl

@[simp] theorem giveBack_px (r : HostReply) (s : State) : (giveBack r s).px = s.px := rfl
@[simp] theorem giveBack_py (r : HostReply) (s : State) : (giveBack r s).py = s.py := rfl
@[simp] theorem giveBack_d (r : HostReply) (s : State) : (giveBack r s).d = s.d := rfl
@[simp] theorem giveBack_hx (r : HostReply) (s : State) : (giveBack r s).hx = s.hx := rfl
@[simp] theorem giveBack_hy (r : HostReply) (s : State) : (giveBack r s).hy = s.hy := rfl
@[simp] theorem giveBack_grid (r : HostReply) (s : State) : (giveBack r s).grid = s.grid := rfl
@[simp] theorem giveBack_image (r : HostReply) (s : State) : (giveBack r s).image = s.image := rfl
@[simp] theorem giveBack_imageLen (r : HostReply) (s : State) : (giveBack r s).imageLen = s.imageLen := rfl
@[simp] theorem giveBack_bytecodeValid (r : HostReply) (s : State) : (giveBack r s).bytecodeValid = s.bytecodeValid := rfl
@[simp] theorem giveBack_worldValid (r : HostReply) (s : State) : (giveBack r s).worldValid = s.worldValid := rfl
@[simp] theorem giveBack_status (r : HostReply) (s : State) : (giveBack r s).status = s.status := rfl
@[simp] theorem giveBack_shortMask (r : HostReply) (s : State) : (giveBack r s).shortMask = s.shortMask := rfl
@[simp] theorem giveBack_busy (r : HostReply) (s : State) : (giveBack r s).busy = s.busy := rfl
@[simp] theorem giveBack_pc (r : HostReply) (s : State) : (giveBack r s).pc = s.pc := rfl
@[simp] theorem giveBack_callStack (r : HostReply) (s : State) : (giveBack r s).callStack = s.callStack := rfl
@[simp] theorem giveBack_repeatStack (r : HostReply) (s : State) : (giveBack r s).repeatStack = s.repeatStack := rfl
@[simp] theorem giveBack_curRepeat (r : HostReply) (s : State) : (giveBack r s).curRepeat = s.curRepeat := rfl
@[simp] theorem giveBack_depth (r : HostReply) (s : State) : (giveBack r s).depth = s.depth := rfl
@[simp] theorem giveBack_fault (r : HostReply) (s : State) : (giveBack r s).fault = s.fault := rfl
@[simp] theorem giveBack_statusWritten (r : HostReply) (s : State) : (giveBack r s).statusWritten = s.statusWritten := rfl
@[simp] theorem giveBack_draws (r : HostReply) (s : State) : (giveBack r s).draws = s.draws := rfl
@[simp] theorem giveBack_agenda (r : HostReply) (s : State) : (giveBack r s).agenda = s.agenda := rfl
@[simp] theorem giveBack_reply (r : HostReply) (s : State) : (giveBack r s).reply = some r := rfl

@[simp] theorem startRun_px (e : Pc) (s : State) : (startRun e s).px = s.px := rfl
@[simp] theorem startRun_py (e : Pc) (s : State) : (startRun e s).py = s.py := rfl
@[simp] theorem startRun_d (e : Pc) (s : State) : (startRun e s).d = s.d := rfl
@[simp] theorem startRun_hx (e : Pc) (s : State) : (startRun e s).hx = s.hx := rfl
@[simp] theorem startRun_hy (e : Pc) (s : State) : (startRun e s).hy = s.hy := rfl
@[simp] theorem startRun_grid (e : Pc) (s : State) : (startRun e s).grid = s.grid := rfl
@[simp] theorem startRun_image (e : Pc) (s : State) : (startRun e s).image = s.image := rfl
@[simp] theorem startRun_imageLen (e : Pc) (s : State) : (startRun e s).imageLen = s.imageLen := rfl
@[simp] theorem startRun_bytecodeValid (e : Pc) (s : State) : (startRun e s).bytecodeValid = s.bytecodeValid := rfl
@[simp] theorem startRun_worldValid (e : Pc) (s : State) : (startRun e s).worldValid = s.worldValid := rfl
@[simp] theorem startRun_status (e : Pc) (s : State) : (startRun e s).status = Config.statusNumber .inProgress := rfl
@[simp] theorem startRun_shortMask (e : Pc) (s : State) : (startRun e s).shortMask = 1 := rfl
@[simp] theorem startRun_busy (e : Pc) (s : State) : (startRun e s).busy = true := rfl
@[simp] theorem startRun_pc (e : Pc) (s : State) : (startRun e s).pc = e := rfl
@[simp] theorem startRun_callStack (e : Pc) (s : State) : (startRun e s).callStack = [] := rfl
@[simp] theorem startRun_repeatStack (e : Pc) (s : State) : (startRun e s).repeatStack = [] := rfl
@[simp] theorem startRun_curRepeat (e : Pc) (s : State) : (startRun e s).curRepeat = none := rfl
@[simp] theorem startRun_depth (e : Pc) (s : State) : (startRun e s).depth = 0 := rfl
@[simp] theorem startRun_fault (e : Pc) (s : State) : (startRun e s).fault = s.fault := rfl
@[simp] theorem startRun_statusWritten (e : Pc) (s : State) : (startRun e s).statusWritten = true := rfl
@[simp] theorem startRun_draws (e : Pc) (s : State) : (startRun e s).draws = s.draws := rfl
@[simp] theorem startRun_agenda (e : Pc) (s : State) : (startRun e s).agenda = s.agenda := rfl
@[simp] theorem startRun_reply (e : Pc) (s : State) : (startRun e s).reply = s.reply := rfl

@[simp] theorem hostShortCircuit_px (s : State) : (hostShortCircuit s).px = s.px := rfl
@[simp] theorem hostShortCircuit_py (s : State) : (hostShortCircuit s).py = s.py := rfl
@[simp] theorem hostShortCircuit_d (s : State) : (hostShortCircuit s).d = s.d := rfl
@[simp] theorem hostShortCircuit_hx (s : State) : (hostShortCircuit s).hx = s.hx := rfl
@[simp] theorem hostShortCircuit_hy (s : State) : (hostShortCircuit s).hy = s.hy := rfl
@[simp] theorem hostShortCircuit_grid (s : State) : (hostShortCircuit s).grid = s.grid := rfl
@[simp] theorem hostShortCircuit_image (s : State) : (hostShortCircuit s).image = s.image := rfl
@[simp] theorem hostShortCircuit_imageLen (s : State) : (hostShortCircuit s).imageLen = s.imageLen := rfl
@[simp] theorem hostShortCircuit_bytecodeValid (s : State) : (hostShortCircuit s).bytecodeValid = s.bytecodeValid := rfl
@[simp] theorem hostShortCircuit_worldValid (s : State) : (hostShortCircuit s).worldValid = s.worldValid := rfl
@[simp] theorem hostShortCircuit_status (s : State) : (hostShortCircuit s).status = s.status := rfl
@[simp] theorem hostShortCircuit_shortMask (s : State) : (hostShortCircuit s).shortMask = 0 := rfl
@[simp] theorem hostShortCircuit_busy (s : State) : (hostShortCircuit s).busy = s.busy := rfl
@[simp] theorem hostShortCircuit_pc (s : State) : (hostShortCircuit s).pc = s.pc := rfl
@[simp] theorem hostShortCircuit_callStack (s : State) : (hostShortCircuit s).callStack = s.callStack := rfl
@[simp] theorem hostShortCircuit_repeatStack (s : State) : (hostShortCircuit s).repeatStack = s.repeatStack := rfl
@[simp] theorem hostShortCircuit_curRepeat (s : State) : (hostShortCircuit s).curRepeat = s.curRepeat := rfl
@[simp] theorem hostShortCircuit_depth (s : State) : (hostShortCircuit s).depth = s.depth := rfl
@[simp] theorem hostShortCircuit_fault (s : State) : (hostShortCircuit s).fault = s.fault := rfl
@[simp] theorem hostShortCircuit_statusWritten (s : State) : (hostShortCircuit s).statusWritten = s.statusWritten := rfl
@[simp] theorem hostShortCircuit_draws (s : State) : (hostShortCircuit s).draws = s.draws := rfl
@[simp] theorem hostShortCircuit_agenda (s : State) : (hostShortCircuit s).agenda = s.agenda := rfl
@[simp] theorem hostShortCircuit_reply (s : State) : (hostShortCircuit s).reply = s.reply := rfl

@[simp] theorem installImage_px (bytes : List Byte) (s : State) : (installImage bytes s).px = s.px := rfl
@[simp] theorem installImage_py (bytes : List Byte) (s : State) : (installImage bytes s).py = s.py := rfl
@[simp] theorem installImage_d (bytes : List Byte) (s : State) : (installImage bytes s).d = s.d := rfl
@[simp] theorem installImage_hx (bytes : List Byte) (s : State) : (installImage bytes s).hx = s.hx := rfl
@[simp] theorem installImage_hy (bytes : List Byte) (s : State) : (installImage bytes s).hy = s.hy := rfl
@[simp] theorem installImage_grid (bytes : List Byte) (s : State) : (installImage bytes s).grid = s.grid := rfl
@[simp] theorem installImage_image (bytes : List Byte) (s : State) : (installImage bytes s).image = Memory.ofBytes bytes := rfl
@[simp] theorem installImage_imageLen (bytes : List Byte) (s : State) : (installImage bytes s).imageLen = BitVec.ofNat 32 bytes.length := rfl
@[simp] theorem installImage_bytecodeValid (bytes : List Byte) (s : State) : (installImage bytes s).bytecodeValid = true := rfl
@[simp] theorem installImage_worldValid (bytes : List Byte) (s : State) : (installImage bytes s).worldValid = s.worldValid := rfl
@[simp] theorem installImage_status (bytes : List Byte) (s : State) : (installImage bytes s).status = s.status := rfl
@[simp] theorem installImage_shortMask (bytes : List Byte) (s : State) : (installImage bytes s).shortMask = s.shortMask := rfl
@[simp] theorem installImage_busy (bytes : List Byte) (s : State) : (installImage bytes s).busy = s.busy := rfl
@[simp] theorem installImage_pc (bytes : List Byte) (s : State) : (installImage bytes s).pc = s.pc := rfl
@[simp] theorem installImage_callStack (bytes : List Byte) (s : State) : (installImage bytes s).callStack = s.callStack := rfl
@[simp] theorem installImage_repeatStack (bytes : List Byte) (s : State) : (installImage bytes s).repeatStack = s.repeatStack := rfl
@[simp] theorem installImage_curRepeat (bytes : List Byte) (s : State) : (installImage bytes s).curRepeat = s.curRepeat := rfl
@[simp] theorem installImage_depth (bytes : List Byte) (s : State) : (installImage bytes s).depth = s.depth := rfl
@[simp] theorem installImage_fault (bytes : List Byte) (s : State) : (installImage bytes s).fault = s.fault := rfl
@[simp] theorem installImage_statusWritten (bytes : List Byte) (s : State) : (installImage bytes s).statusWritten = s.statusWritten := rfl
@[simp] theorem installImage_draws (bytes : List Byte) (s : State) : (installImage bytes s).draws = s.draws := rfl
@[simp] theorem installImage_agenda (bytes : List Byte) (s : State) : (installImage bytes s).agenda = s.agenda := rfl
@[simp] theorem installImage_reply (bytes : List Byte) (s : State) : (installImage bytes s).reply = s.reply := rfl

@[simp] theorem installWorld_px (cells : CellArray) (r : RobotRecord) (s : State) : (installWorld cells r s).px = r.px := rfl
@[simp] theorem installWorld_py (cells : CellArray) (r : RobotRecord) (s : State) : (installWorld cells r s).py = r.py := rfl
@[simp] theorem installWorld_d (cells : CellArray) (r : RobotRecord) (s : State) : (installWorld cells r s).d = r.d.setWidth 2 := rfl
@[simp] theorem installWorld_hx (cells : CellArray) (r : RobotRecord) (s : State) : (installWorld cells r s).hx = r.hx := rfl
@[simp] theorem installWorld_hy (cells : CellArray) (r : RobotRecord) (s : State) : (installWorld cells r s).hy = r.hy := rfl
@[simp] theorem installWorld_grid (cells : CellArray) (r : RobotRecord) (s : State) : (installWorld cells r s).grid = importCells cells s.grid := rfl
@[simp] theorem installWorld_image (cells : CellArray) (r : RobotRecord) (s : State) : (installWorld cells r s).image = s.image := rfl
@[simp] theorem installWorld_imageLen (cells : CellArray) (r : RobotRecord) (s : State) : (installWorld cells r s).imageLen = s.imageLen := rfl
@[simp] theorem installWorld_bytecodeValid (cells : CellArray) (r : RobotRecord) (s : State) : (installWorld cells r s).bytecodeValid = s.bytecodeValid := rfl
@[simp] theorem installWorld_worldValid (cells : CellArray) (r : RobotRecord) (s : State) : (installWorld cells r s).worldValid = true := rfl
@[simp] theorem installWorld_status (cells : CellArray) (r : RobotRecord) (s : State) : (installWorld cells r s).status = s.status := rfl
@[simp] theorem installWorld_shortMask (cells : CellArray) (r : RobotRecord) (s : State) : (installWorld cells r s).shortMask = s.shortMask := rfl
@[simp] theorem installWorld_busy (cells : CellArray) (r : RobotRecord) (s : State) : (installWorld cells r s).busy = s.busy := rfl
@[simp] theorem installWorld_pc (cells : CellArray) (r : RobotRecord) (s : State) : (installWorld cells r s).pc = s.pc := rfl
@[simp] theorem installWorld_callStack (cells : CellArray) (r : RobotRecord) (s : State) : (installWorld cells r s).callStack = s.callStack := rfl
@[simp] theorem installWorld_repeatStack (cells : CellArray) (r : RobotRecord) (s : State) : (installWorld cells r s).repeatStack = s.repeatStack := rfl
@[simp] theorem installWorld_curRepeat (cells : CellArray) (r : RobotRecord) (s : State) : (installWorld cells r s).curRepeat = s.curRepeat := rfl
@[simp] theorem installWorld_depth (cells : CellArray) (r : RobotRecord) (s : State) : (installWorld cells r s).depth = s.depth := rfl
@[simp] theorem installWorld_fault (cells : CellArray) (r : RobotRecord) (s : State) : (installWorld cells r s).fault = s.fault := rfl
@[simp] theorem installWorld_statusWritten (cells : CellArray) (r : RobotRecord) (s : State) : (installWorld cells r s).statusWritten = s.statusWritten := rfl
@[simp] theorem installWorld_draws (cells : CellArray) (r : RobotRecord) (s : State) : (installWorld cells r s).draws = s.draws := rfl
@[simp] theorem installWorld_agenda (cells : CellArray) (r : RobotRecord) (s : State) : (installWorld cells r s).agenda = s.agenda := rfl
@[simp] theorem installWorld_reply (cells : CellArray) (r : RobotRecord) (s : State) : (installWorld cells r s).reply = s.reply := rfl

end Sys2Proof.Machine
end

