-- ==== Sys2Proof/Laws/Ops.lean ====
section
/-! SUPPORT. For each shared operation, once, everything it can do. Later proofs cite these and unfold nothing. -/
namespace Sys2Proof.Machine

/-! ## Nibbles -/

/-- The parity the configuration gives the low nibble. -/
theorem lowHalf_eq (x : Nat) : lowHalf x = decide (x % 2 = 0) := by simp [lowHalf, Config.evenColumnLow]

@[simp] theorem nibbleOf_withNibble_same (x : Nat) (b : Byte) (v : Nibble) : nibbleOf x (withNibble x b v) = v := by
  unfold nibbleOf withNibble
  split
  · exact BitVec.extractLsb'_append_eq_right
  · exact BitVec.extractLsb'_append_eq_left

theorem nibbleOf_withNibble_other {x x' : Nat} (b : Byte) (v : Nibble) (h : x % 2 ≠ x' % 2) :
    nibbleOf x' (withNibble x b v) = nibbleOf x' b := by
  simp only [nibbleOf, withNibble, lowHalf_eq, decide_eq_true_eq]
  rcases Nat.mod_two_eq_zero_or_one x with h0 | h1
  · have h' : x' % 2 ≠ 0 := fun e => h (h0.trans e.symm)
    simp only [h0, h', if_true, if_false]
    exact BitVec.extractLsb'_append_eq_left
  · have h' : x' % 2 = 0 := by omega
    simp only [h1, h', if_true, one_ne_zero, if_false]
    exact BitVec.extractLsb'_append_eq_right

/-! ## The grid -/

theorem gridGet_eq_ok {g : Memory} {x y : Nat} {v : Nibble} :
    gridGet g x y = .ok v ↔ InGrid x y ∧ cellValue g x y = v := by
  unfold gridGet
  split
  · next h => exact ⟨fun e => ⟨h, Except.ok.inj e⟩, fun e => congrArg _ e.2⟩
  · next h => exact ⟨fun e => (nomatch e), fun e => absurd e.1 h⟩

theorem gridGet_eq_error {g : Memory} {x y : Nat} {c : Cause} :
    gridGet g x y = .error c ↔ ¬ InGrid x y ∧ c = .gridRange := by
  unfold gridGet
  split
  · next h => simp [h]
  · next h => simp only [h, not_false_eq_true, true_and, Except.error.injEq]; exact eq_comm

theorem gridSet_eq_ok {g g' : Memory} {x y : Nat} {v : Nibble} :
    gridSet g x y v = .ok g' ↔ InGrid x y ∧ setCellValue g x y v = g' := by
  unfold gridSet
  split
  · next h => exact ⟨fun e => ⟨h, Except.ok.inj e⟩, fun e => congrArg _ e.2⟩
  · next h => exact ⟨fun e => (nomatch e), fun e => absurd e.1 h⟩

/-- The cells of the grid lie inside `GRID`. -/
theorem cellAddress_lt {x y : Nat} (h : InGrid x y) : cellAddress x y < Config.gridBytes := by
  simp only [InGrid, cellAddress, Config.gridBytes, Config.cellCount, Config.gridSide] at *
  omega

/-- Two cells of the grid share a byte only with different columns' parities, so a cell has one place. -/
theorem cellAddress_parity_inj {x y x' y' : Nat} (h : InGrid x y) (h' : InGrid x' y')
    (ha : cellAddress x y = cellAddress x' y') (hp : x % 2 = x' % 2) : x = x' ∧ y = y' := by
  simp only [InGrid, cellAddress, Config.gridSide] at *
  omega

/-- Reading any cell of the grid after writing one: the value written there, and every other cell as before. -/
theorem cellValue_setCellValue {g : Memory} (hg : g.wf) {x y x' y' : Nat} (h : InGrid x y) (h' : InGrid x' y')
    (v : Nibble) :
    cellValue (setCellValue g x y v) x' y' = if x' = x ∧ y' = y then v else cellValue g x' y' := by
  unfold cellValue
  by_cases ha : cellAddress x' y' = cellAddress x y
  · rw [ha, setCellValue_read_same hg]
    split
    · next e =>
      obtain ⟨rfl, rfl⟩ := e
      exact nibbleOf_withNibble_same _ _ _
    · next hne => exact nibbleOf_withNibble_other _ _ fun hp => hne (cellAddress_parity_inj h' h ha hp.symm)
  · rw [setCellValue_read_other g v ha]
    split
    · next e =>
      obtain ⟨rfl, rfl⟩ := e
      exact absurd rfl ha
    · rfl

/-- A flag taken from a cell that is not empty. -/
theorem nibble_sub_one {h : Nibble} (h0 : h ≠ 0) : (h - 1).toNat + 1 = h.toNat := by
  have hn : h.toNat ≠ 0 := fun e => h0 (BitVec.eq_of_toNat_eq e)
  bv_omega

/-- A flag added to a cell that is not full: the sum stays in the nibble. -/
theorem nibble_add_one {h : Nibble} (hm : h.toNat < Config.maxFlags) : (h + 1).toNat = h.toNat + 1 := by
  simp only [Config.maxFlags] at hm
  bv_omega

/-! ## The robot -/

theorem word_add_one {w : Word} (h : w.toNat + 1 < 2 ^ 32) : (w + 1).toNat = w.toNat + 1 := by
  rw [BitVec.toNat_add]
  exact Nat.mod_eq_of_lt h

theorem word_sub_one {w : Word} (h : w ≠ 0) : (w - 1).toNat + 1 = w.toNat := by
  have h0 : w.toNat ≠ 0 := fun e => h (BitVec.eq_of_toNat_eq e)
  bv_omega

/-- The four rows of 41_robot_primitives.md R120. -/
theorem previewStep_cases {s : State} {x y : Word} (h : previewStep s = some (x, y)) :
    (s.d = 0 ∧ s.py.toNat + 1 < Config.gridSide ∧ x = s.px ∧ y = s.py + 1) ∨
    (s.d = 1 ∧ s.px ≠ 0 ∧ x = s.px - 1 ∧ y = s.py) ∨
    (s.d = 2 ∧ s.py ≠ 0 ∧ x = s.px ∧ y = s.py - 1) ∨
    (s.d = 3 ∧ s.px.toNat + 1 < Config.gridSide ∧ x = s.px + 1 ∧ y = s.py) := by
  have hd : s.d = 0 ∨ s.d = 1 ∨ s.d = 2 ∨ s.d = 3 := by
    generalize s.d = d
    revert d
    decide
  unfold previewStep at h
  rcases hd with hd | hd | hd | hd <;> rw [hd] at h <;> simp at h <;> simp [hd] <;>
    exact ⟨by first | omega | tauto, by simp_all⟩

/-- From a robot on the grid the previewed cell is on the grid. -/
theorem previewStep_inGrid {s : State} {x y : Word} (hs : InGrid s.px.toNat s.py.toNat)
    (h : previewStep s = some (x, y)) : InGrid x.toNat y.toNat := by
  have hN : Config.gridSide < 2 ^ 32 := by decide
  obtain ⟨hx, hy⟩ := hs
  rcases previewStep_cases h with ⟨-, h1, rfl, rfl⟩ | ⟨-, h1, rfl, rfl⟩ | ⟨-, h1, rfl, rfl⟩ | ⟨-, h1, rfl, rfl⟩
  · exact ⟨hx, by rw [word_add_one (by omega)]; exact h1⟩
  · exact ⟨by have := word_sub_one h1; omega, hy⟩
  · exact ⟨hx, by have := word_sub_one h1; omega⟩
  · exact ⟨by rw [word_add_one (by omega)]; exact h1, hy⟩

/-! ## Frames -/

/-- A frame opening does what its caller asks, at once or after a draw, or ends the run. -/
theorem openFrame_cases (k : State → State) (s : State) :
    (s.depth < Config.fastDepth ∧ openFrame k s = k s) ∨
    (Config.fastDepth ≤ s.depth ∧ Config.growOk s.draws = true ∧ openFrame k s = k (spendDraw s)) ∨
    (Config.fastDepth ≤ s.depth ∧ Config.growOk s.draws = false ∧
      openFrame k s = terminate .unknownError (spendDraw s)) := by
  unfold openFrame
  split
  · exact .inl ⟨‹_›, rfl⟩
  · split
    · exact .inr (.inl ⟨by omega, ‹_›, rfl⟩)
    · exact .inr (.inr ⟨by omega, by simp_all, rfl⟩)

/-- A visit closes the loop or goes round again. -/
theorem visitLoop_cases (top : Pc) (f : Frame) (s : State) :
    (f.remaining = 1 ∧ visitLoop top f s = advance 7 (popRepeat s)) ∨
    (f.remaining ≠ 1 ∧ visitLoop top f s = jump top (setRepeat { f with remaining := f.remaining - 1 } s)) := by
  unfold visitLoop
  split
  · exact .inl ⟨‹_›, rfl⟩
  · exact .inr ⟨‹_›, rfl⟩

/-! ## Instructions -/

/-- Every instruction answers a next state: a model fault is the register `fault` written, not a stop. -/
theorem exec_answers_next (i : Instr) (s : State) : ∃ t, exec i s = .next t := by
  cases i <;> simp only [exec, execStep, execLeft, execPickUp, execPlace, execBranch, execBranchLinked, execRetn,
    execStop, execRepeat]
  case step => repeat' split
               all_goals exact ⟨_, rfl⟩
  case pickUp => repeat' split
                 all_goals exact ⟨_, rfl⟩
  case place => repeat' split
                all_goals exact ⟨_, rfl⟩
  case branch => split <;> exact ⟨_, rfl⟩
  case retn => split <;> exact ⟨_, rfl⟩
  case repeatLoop => repeat' split
                     all_goals exact ⟨_, rfl⟩
  all_goals exact ⟨_, rfl⟩

/-! ## Moves -/

/-- The interpreter's turn, when it has a next state. -/
theorem interpreterTurn_next {s t : State} (h : interpreterTurn s = .next t) :
    s.fault = none ∧ s.busy = true ∧
      ((∃ c, decodeAt s (fetchAddress s).toNat = .error c ∧ t = raiseFault c s) ∨
       (∃ i, decodeAt s (fetchAddress s).toNat = .ok i ∧ exec i s = .next t)) := by
  unfold interpreterTurn at h
  split at h
  · cases h
  · split at h
    · refine ⟨‹_›, ‹_›, ?_⟩
      unfold runInstruction at h
      split at h
      · exact .inl ⟨_, ‹_›, by cases h; rfl⟩
      · exact .inr ⟨_, ‹_›, h⟩
    · cases h

/-- A step that has a next state is the interpreter's move, or an enabled move of the host's that stood first on the
agenda. -/
theorem step_next {s t : State} (h : step s = .next t) :
    (∃ u, (u = s ∨ u = popAgenda s) ∧ interpreterTurn u = .next t) ∨
    (∃ op rest, s.agenda = .host op :: rest ∧ hostEnabled op s = true ∧ t = hostMove op (popAgenda s)) := by
  unfold step takeTurn at h
  split at h
  · exact .inl ⟨s, .inl rfl, h⟩
  · exact .inl ⟨_, .inr rfl, h⟩
  · next op rest hag =>
    split at h
    · exact .inr ⟨op, rest, hag, ‹_›, by cases h; rfl⟩
    · exact .inl ⟨s, .inl rfl, h⟩

end Sys2Proof.Machine
end

