-- ==== Sys2Proof/Laws/Exec.lean ====
section
/-! SUPPORT. For each instruction, once, every next state it can answer, as named updates of the state it runs in. -/
namespace Sys2Proof.Machine

/-- Writing the robot's cell: the cell is written and `pc` advanced, or, off the grid, the fault recorded. -/
theorem writeHere_cases (v : Nibble) (s : State) :
    (InGrid s.px.toNat s.py.toNat ∧
      writeHere v s = advance 1 (withGrid (setCellValue s.grid s.px.toNat s.py.toNat v) s)) ∨
    (¬ InGrid s.px.toNat s.py.toNat ∧ writeHere v s = raiseFault .gridRange s) := by
  by_cases h : InGrid s.px.toNat s.py.toNat
  · have hg : gridSet s.grid s.px.toNat s.py.toNat v = .ok _ := gridSet_eq_ok.2 ⟨h, rfl⟩
    exact .inl ⟨h, by simp only [writeHere, setHere, hg]⟩
  · exact .inr ⟨h, by simp only [writeHere, setHere, gridSet, h, if_false]⟩

/-- 41_robot_primitives.md R122: the robot moves, or the run ends, or the cell ahead is off the grid. -/
theorem execStep_cases (s : State) :
    execStep s = .next (terminate .stepOutOfBounds s) ∨
    (∃ x y, previewStep s = some (x, y) ∧ ¬ InGrid x.toNat y.toNat ∧ execStep s = .next (raiseFault .gridRange s)) ∨
    (∃ x y, previewStep s = some (x, y) ∧ InGrid x.toNat y.toNat ∧ cellValue s.grid x.toNat y.toNat ≠ Config.wall ∧
      execStep s = .next (advance 1 (moveRobot x y s))) := by
  unfold execStep
  split
  · exact .inl rfl
  · next x y hp =>
    split
    · next c hc => exact .inr (.inl ⟨x, y, hp, (gridGet_eq_error.1 hc).1, by rw [(gridGet_eq_error.1 hc).2]⟩)
    · next v hv =>
      obtain ⟨hin, rfl⟩ := gridGet_eq_ok.1 hv
      split
      · exact .inl rfl
      · next hw => exact .inr (.inr ⟨x, y, hp, hin, hw, rfl⟩)

/-- 41_robot_primitives.md R124: a flag is taken, or the run ends, or a fault is recorded. -/
theorem execPickUp_cases (s : State) :
    let h := cellValue s.grid s.px.toNat s.py.toNat
    (¬ InGrid s.px.toNat s.py.toNat ∧ execPickUp s = .next (raiseFault .gridRange s)) ∨
    (InGrid s.px.toNat s.py.toNat ∧
      ((h = 0 ∧ execPickUp s = .next (terminate .pickupZeroFlags s)) ∨
       (Config.maxFlags < h.toNat ∧ execPickUp s = .next (raiseFault .cellNotFlagcount s)) ∨
       (h ≠ 0 ∧ h.toNat ≤ Config.maxFlags ∧ execPickUp s =
          .next (advance 1 (withGrid (setCellValue s.grid s.px.toNat s.py.toNat (h - 1)) s))))) := by
  intro h
  unfold execPickUp here cellAt
  by_cases hin : InGrid s.px.toNat s.py.toNat
  · have hg : gridGet s.grid s.px.toNat s.py.toNat = .ok h := gridGet_eq_ok.2 ⟨hin, rfl⟩
    simp only [hg]
    refine .inr ⟨hin, ?_⟩
    split
    · exact .inl ⟨‹_›, rfl⟩
    split
    · exact .inr (.inl ⟨‹_›, rfl⟩)
    · refine .inr (.inr ⟨‹_›, by omega, ?_⟩)
      rcases writeHere_cases (h - 1) s with ⟨-, e⟩ | ⟨e, -⟩
      · rw [e]
      · exact absurd hin e
  · have hg : gridGet s.grid s.px.toNat s.py.toNat = .error .gridRange := gridGet_eq_error.2 ⟨hin, rfl⟩
    simp only [hg]
    exact .inl ⟨hin, trivial⟩

/-- 41_robot_primitives.md R125: a flag is added, or the run ends, or a fault is recorded. -/
theorem execPlace_cases (s : State) :
    let h := cellValue s.grid s.px.toNat s.py.toNat
    (¬ InGrid s.px.toNat s.py.toNat ∧ execPlace s = .next (raiseFault .gridRange s)) ∨
    (InGrid s.px.toNat s.py.toNat ∧
      ((h.toNat = Config.maxFlags ∧ execPlace s = .next (terminate .placeMaxFlags s)) ∨
       (Config.maxFlags < h.toNat ∧ execPlace s = .next (raiseFault .cellNotFlagcount s)) ∨
       (h.toNat < Config.maxFlags ∧ execPlace s =
          .next (advance 1 (withGrid (setCellValue s.grid s.px.toNat s.py.toNat (h + 1)) s))))) := by
  intro h
  unfold execPlace here cellAt
  by_cases hin : InGrid s.px.toNat s.py.toNat
  · have hg : gridGet s.grid s.px.toNat s.py.toNat = .ok h := gridGet_eq_ok.2 ⟨hin, rfl⟩
    simp only [hg]
    refine .inr ⟨hin, ?_⟩
    split
    · exact .inl ⟨‹_›, rfl⟩
    split
    · exact .inr (.inl ⟨‹_›, rfl⟩)
    · refine .inr (.inr ⟨by omega, ?_⟩)
      rcases writeHere_cases (h + 1) s with ⟨-, e⟩ | ⟨e, -⟩
      · rw [e]
      · exact absurd hin e
  · have hg : gridGet s.grid s.px.toNat s.py.toNat = .error .gridRange := gridGet_eq_error.2 ⟨hin, rfl⟩
    simp only [hg]
    exact .inl ⟨hin, trivial⟩

/-- A condition has a value, or its one grid access is off the grid (42_control_transfer.md R140). -/
theorem condTrue_cases (cond : Cond) (inv : Bool) (s : State) :
    (∃ b, condTrue cond inv s = .ok b) ∨
    (condTrue cond inv s = .error .gridRange ∧
      (¬ InGrid s.px.toNat s.py.toNat ∨ ∃ x y, previewStep s = some (x, y) ∧ ¬ InGrid x.toNat y.toNat)) := by
  unfold condTrue
  cases cond <;> simp only [rawCond] <;> try exact .inl ⟨_, rfl⟩
  · unfold wallAhead
    rcases hp : previewStep s with _ | ⟨x, y⟩
    · exact .inl ⟨_, rfl⟩
    · rcases hc : cellAt x y s with c | v
      · obtain ⟨hn, rfl⟩ := gridGet_eq_error.1 hc
        exact .inr ⟨by simp [hc], .inr ⟨x, y, rfl, hn⟩⟩
      · exact .inl ⟨(v == Config.wall) ^^ inv, by simp [hc]⟩
  · unfold flagHere
    rcases hc : here s with c | v
    · obtain ⟨hn, rfl⟩ := gridGet_eq_error.1 hc
      exact .inr ⟨by simp, .inl hn⟩
    · exact .inl ⟨(v != 0 && v != Config.wall) ^^ inv, by simp⟩

/-- 42_control_transfer.md R140, R141: NONE is true, and NOT.NONE is false. -/
@[simp] theorem condTrue_none (inv : Bool) (s : State) : condTrue .none inv s = .ok (!inv) := by
  simp [condTrue, rawCond]

/-- 42_control_transfer.md R143: a jump when the condition is true, a fall-through when it is false, or a condition that
is off the grid. -/
theorem execBranch_cases (cond : Cond) (inv : Bool) (target : Pc) (s : State) :
    (condTrue cond inv s = .ok true ∧ execBranch cond inv target s = .next (jump target s)) ∨
    (condTrue cond inv s = .ok false ∧ execBranch cond inv target s = .next (advance 5 s)) ∨
    (execBranch cond inv target s = .next (raiseFault .gridRange s) ∧
      (¬ InGrid s.px.toNat s.py.toNat ∨ ∃ x y, previewStep s = some (x, y) ∧ ¬ InGrid x.toNat y.toNat)) := by
  unfold execBranch
  rcases condTrue_cases cond inv s with ⟨b, h⟩ | ⟨h, hn⟩
  · rw [h]
    cases b
    · exact .inr (.inl ⟨rfl, rfl⟩)
    · exact .inl ⟨rfl, rfl⟩
  · rw [h]
    exact .inr (.inr ⟨rfl, hn⟩)

/-- 42_control_transfer.md R149: a return, or the end of the run. -/
theorem execRetn_cases (s : State) :
    (s.callStack = [] ∧ execRetn s = .next (terminate .success s)) ∨
    (∃ ret rest, s.callStack = ret :: rest ∧ execRetn s = .next (jump ret (popCall s))) := by
  unfold execRetn
  split
  · exact .inl ⟨‹_›, rfl⟩
  · exact .inr ⟨_, _, ‹_›, rfl⟩

/-- 43_repeat.md R161, R162: a continuing visit of the current frame, or a first visit. -/
theorem execRepeat_cases (top : Pc) (count : Count) (s : State) :
    (∃ f, s.curRepeat = some f ∧ f.origin = s.pc ∧ execRepeat top count s = .next (visitLoop top f s)) ∨
    ((∀ f, s.curRepeat = some f → f.origin ≠ s.pc) ∧ execRepeat top count s = .next (firstVisit top count s)) := by
  unfold execRepeat
  split
  · next h => exact .inr ⟨fun f hf => by simp [h] at hf, rfl⟩
  · next f h =>
    split
    · exact .inl ⟨f, h, ‹_›, rfl⟩
    · next hne =>
      refine .inr ⟨fun f' hf' => ?_, rfl⟩
      rw [h] at hf'
      cases hf'
      exact hne

/-- 43_repeat.md R162, R164: a first visit faults on count 0, and otherwise opens its frame. -/
theorem firstVisit_cases (top : Pc) (count : Count) (s : State) :
    (count = 0 ∧ firstVisit top count s = raiseFault .repeatZero s) ∨
    (count ≠ 0 ∧ firstVisit top count s =
      openFrame (fun t => visitLoop top ⟨t.pc, count⟩ (pushRepeat ⟨t.pc, count⟩ t)) s) := by
  unfold firstVisit
  split
  · exact .inl ⟨‹_›, rfl⟩
  · exact .inr ⟨‹_›, rfl⟩

end Sys2Proof.Machine
end

