-- ==== Sys2Proof/Laws/Effect.lean ====
section
/-! SUPPORT. The whole of what executing an instruction can do, said once: the next state is one of a few named updates
of the state it runs in. A proof about every instruction takes `exec_effect` apart and unfolds no meaning. -/
namespace Sys2Proof.Machine

/-- The state a frame opening that succeeds works on: a draw may have been spent. -/
def OpensFrom (s u : State) : Prop := u = s ∨ u = spendDraw s

/-- The next states of an instruction, with what the state before it must satisfy for each. -/
inductive Effect (s : State) : Instr → State → Prop where
  /-- A primitive, RETN or STOP ends the run (40_fetch_dispatch.md R108). -/
  | ends (i : Instr) (code : Status) : code ∈ terminalStatuses →
      i = .step ∨ i = .pickUp ∨ i = .place ∨ i = .retn ∨ i = .stop →
      (i = .retn → s.callStack = []) → Effect s i (terminate code s)
  /-- A frame opening fails (42_control_transfer.md R145). -/
  | growthFails (i : Instr) : (∃ target, i = .branchLinked target) ∨ (∃ top count, i = .repeatLoop top count) →
      Effect s i (terminate .unknownError (spendDraw s))
  /-- PICK_UP or PLACE meets a cell that holds no flag count (41_robot_primitives.md R124, R125). -/
  | notFlagcount (i : Instr) : i = .pickUp ∨ i = .place → InGrid s.px.toNat s.py.toNat →
      Config.maxFlags < (cellValue s.grid s.px.toNat s.py.toNat).toNat → Effect s i (raiseFault .cellNotFlagcount s)
  /-- A first visit of a REPEAT with count 0 (43_repeat.md R164). -/
  | repeatZero (top : Pc) : Effect s (.repeatLoop top 0) (raiseFault .repeatZero s)
  /-- A grid access off the grid (20_memory.md R58). -/
  | offGrid (i : Instr) : i = .step ∨ i = .pickUp ∨ i = .place ∨ (∃ cond inv target, i = .branch cond inv target) →
      ¬ InGrid s.px.toNat s.py.toNat ∨ (∃ x y, previewStep s = some (x, y) ∧ ¬ InGrid x.toNat y.toNat) →
      Effect s i (raiseFault .gridRange s)
  /-- STEP moves (41_robot_primitives.md R122). -/
  | moves (x y : Word) : previewStep s = some (x, y) → InGrid x.toNat y.toNat →
      cellValue s.grid x.toNat y.toNat ≠ Config.wall → Effect s .step (advance 1 (moveRobot x y s))
  /-- LEFT turns (41_robot_primitives.md R123). -/
  | turns : Effect s .left (advance 1 (turnLeft s))
  /-- PICK_UP takes a flag (41_robot_primitives.md R124). -/
  | takes (h : Nibble) : InGrid s.px.toNat s.py.toNat → h = cellValue s.grid s.px.toNat s.py.toNat → h ≠ 0 →
      h.toNat ≤ Config.maxFlags →
      Effect s .pickUp (advance 1 (withGrid (setCellValue s.grid s.px.toNat s.py.toNat (h - 1)) s))
  /-- PLACE adds a flag (41_robot_primitives.md R125). -/
  | adds (h : Nibble) : InGrid s.px.toNat s.py.toNat → h = cellValue s.grid s.px.toNat s.py.toNat →
      h.toNat < Config.maxFlags →
      Effect s .place (advance 1 (withGrid (setCellValue s.grid s.px.toNat s.py.toNat (h + 1)) s))
  /-- BRANCH is taken (42_control_transfer.md R143). -/
  | jumps (cond : Cond) (inv : Bool) (target : Pc) : condTrue cond inv s = .ok true →
      Effect s (.branch cond inv target) (jump target s)
  /-- BRANCH is not taken (42_control_transfer.md R143). -/
  | fallsThrough (cond : Cond) (inv : Bool) (target : Pc) : condTrue cond inv s = .ok false →
      Effect s (.branch cond inv target) (advance 5 s)
  /-- BRANCH_LINKED calls (42_control_transfer.md R146). -/
  | calls (target : Pc) (u : State) : OpensFrom s u →
      Effect s (.branchLinked target) (jump target (pushCall (u.pc + 5) u))
  /-- RETN returns (42_control_transfer.md R149). -/
  | returns (ret : Pc) (rest : List Pc) : s.callStack = ret :: rest → Effect s .retn (jump ret (popCall s))
  /-- A continuing visit (43_repeat.md R161, R162). -/
  | visits (top : Pc) (count : Count) (f : Frame) : s.curRepeat = some f → f.origin = s.pc →
      Effect s (.repeatLoop top count) (visitLoop top f s)
  /-- A first visit (43_repeat.md R161, R162). -/
  | opens (top : Pc) (count : Count) (u : State) : (∀ f, s.curRepeat = some f → f.origin ≠ s.pc) → count ≠ 0 →
      OpensFrom s u → Effect s (.repeatLoop top count) (visitLoop top ⟨u.pc, count⟩ (pushRepeat ⟨u.pc, count⟩ u))

/-- Every next state of an instruction is one of its effects. -/
theorem exec_effect {i : Instr} {s t : State} (h : exec i s = .next t) : Effect s i t := by
  cases i <;> simp only [exec] at h
  case step =>
    rcases execStep_cases s with e | ⟨x, y, h1, h2, e⟩ | ⟨x, y, h1, h2, h3, e⟩ <;> rw [e] at h <;> cases h
    · exact .ends _ _ (by decide) (by simp) (by simp)
    · exact .offGrid _ (by simp) (.inr ⟨x, y, h1, h2⟩)
    · exact .moves x y h1 h2 h3
  case left =>
    cases h
    exact .turns
  case pickUp =>
    rcases execPickUp_cases s with ⟨h1, e⟩ | ⟨h1, ⟨-, e⟩ | ⟨h2, e⟩ | ⟨h2, h3, e⟩⟩ <;> rw [e] at h <;> cases h
    · exact .offGrid _ (by simp) (.inl h1)
    · exact .ends _ _ (by decide) (by simp) (by simp)
    · exact .notFlagcount _ (.inl rfl) h1 h2
    · exact .takes _ h1 rfl h2 h3
  case place =>
    rcases execPlace_cases s with ⟨h1, e⟩ | ⟨h1, ⟨-, e⟩ | ⟨h2, e⟩ | ⟨h2, e⟩⟩ <;> rw [e] at h <;> cases h
    · exact .offGrid _ (by simp) (.inl h1)
    · exact .ends _ _ (by decide) (by simp) (by simp)
    · exact .notFlagcount _ (.inr rfl) h1 h2
    · exact .adds _ h1 rfl h2
  case branch cond inv target =>
    rcases execBranch_cases cond inv target s with ⟨hc, e⟩ | ⟨hc, e⟩ | ⟨e, hn⟩ <;> rw [e] at h <;> cases h
    · exact .jumps _ _ _ hc
    · exact .fallsThrough _ _ _ hc
    · exact .offGrid _ (by simp) hn
  case branchLinked target =>
    simp only [execBranchLinked] at h
    rcases openFrame_cases (fun t => jump target (pushCall (t.pc + 5) t)) s with
      ⟨-, e⟩ | ⟨-, -, e⟩ | ⟨-, -, e⟩ <;> rw [e] at h <;> cases h
    · exact .calls _ _ (.inl rfl)
    · exact .calls _ _ (.inr rfl)
    · exact .growthFails _ (by simp)
  case retn =>
    rcases execRetn_cases s with ⟨h1, e⟩ | ⟨ret, rest, h1, e⟩ <;> rw [e] at h <;> cases h
    · exact .ends _ _ (by decide) (by simp) fun _ => h1
    · exact .returns _ _ h1
  case stop =>
    cases h
    exact .ends _ _ (by decide) (by simp) (by simp)
  case repeatLoop top count =>
    rcases execRepeat_cases top count s with ⟨f, h1, h2, e⟩ | ⟨h1, e⟩ <;> rw [e] at h <;> cases h
    · exact .visits _ _ f h1 h2
    rcases firstVisit_cases top count s with ⟨h2, e⟩ | ⟨h2, e⟩ <;> rw [e]
    · subst h2
      exact .repeatZero _
    rcases openFrame_cases (fun t => visitLoop top ⟨t.pc, count⟩ (pushRepeat ⟨t.pc, count⟩ t)) s with
      ⟨-, e⟩ | ⟨-, -, e⟩ | ⟨-, -, e⟩ <;> rw [e]
    · exact .opens _ _ _ h1 h2 (.inl rfl)
    · exact .opens _ _ _ h1 h2 (.inr rfl)
    · exact .growthFails _ (by simp)

/-- A run of steps begins with its first one. -/
theorem core_run_succ {s t : State} (k : Nat) (h : step s = .next t) : core.run (k + 1) s = core.run k t := by
  have hc : core.step s = .next t := h
  simp only [Host.Core.run, hc]

end Sys2Proof.Machine
end

