-- ==== Sys2Proof/Laws/Fetch.lean ====
section
/-! SUPPORT. What the fetch sees, and how far a decoded instruction reaches. -/
namespace Sys2Proof

/-- The term the decoder assembles has the opcode its head byte names. -/
theorem assemble_tag {tag : Tag} {cond : Cond} {inv : Bool} {rest : List Byte} {p : Instr × List Byte}
    (h : assemble tag cond inv rest = some p) : p.1.tag = tag := by
  cases tag <;> simp only [assemble, Option.map_eq_some_iff, Option.bind_eq_some_iff, Option.some.injEq] at h
  case branch =>
    obtain ⟨_, _, rfl⟩ := h
    rfl
  case branchLinked =>
    obtain ⟨_, _, rfl⟩ := h
    rfl
  case repeatLoop =>
    obtain ⟨_, _, _, _, rfl⟩ := h
    rfl
  all_goals
    subst h
    rfl

/-- A byte sequence that decodes is at least as long as what it decodes to (30_encoding.md R98). -/
theorem decode_length {bytes : List Byte} {p : Instr × List Byte} (h : decode bytes = .ok p) :
    p.1.length ≤ bytes.length := by
  unfold decode at h
  split at h
  · cases h
  split at h
  · cases h
  split at h
  · cases h
  split at h
  · cases h
  split at h
  · next hl _ p' ha =>
    cases h
    rw [Instr.length, assemble_tag ha, List.length_cons]
    omega
  · cases h

namespace Machine

/-- The window of the fetch: nothing at or past `IMAGE_LEN`, and otherwise the head byte and what follows it. -/
theorem fetchWindow_cons {s : State} {a : Nat} (h : a < s.imageLen.toNat) :
    fetchWindow s a = s.image.read a ::
      (List.range (min 6 (s.imageLen.toNat - a - 1))).map fun k => s.image.read (a + (k + 1)) := by
  unfold fetchWindow maxLength
  obtain ⟨n, hn⟩ : ∃ n, min 7 (s.imageLen.toNat - a) = n + 1 := ⟨min 6 (s.imageLen.toNat - a - 1), by omega⟩
  have hm : min 6 (s.imageLen.toNat - a - 1) = n := by omega
  rw [hn, hm, List.range_succ_eq_map]
  simp

/-- An instruction decoded at an offset lies inside the image (40_fetch_dispatch.md R104). -/
theorem decodeAt_length {s : State} {a : Nat} {i : Instr} (h : decodeAt s a = .ok i) :
    a + i.length ≤ s.imageLen.toNat := by
  unfold decodeAt at h
  split at h
  · next p hp =>
    cases h
    have hl := decode_length hp
    have h1 : 1 ≤ p.1.length := by
      unfold Instr.length
      cases p.1.tag <;> decide
    simp only [fetchWindow, List.length_map, List.length_range] at hl
    omega
  · cases h

/-- Decoding depends on the image alone. -/
theorem decodeAt_congr {s t : State} (hi : t.image = s.image) (hl : t.imageLen = s.imageLen) (a : Nat) :
    decodeAt t a = decodeAt s a := by
  unfold decodeAt fetchWindow
  rw [hi, hl]

end Machine

end Sys2Proof
end

