-- ==== Sys2Proof/Laws/Host.lean ====
section
/-! SUPPORT. What a host operation can do, once, and the grid an accepted world leaves. -/
namespace Sys2Proof.Machine

/-- Every result of a host operation: an accepted load or run, the mask cleared, a reset, a value given back, or a
refusal, which records its cause and changes nothing else. -/
theorem hostMove_cases (op : HostOp) (s : State) :
    (op = .reset ∧ hostMove op s = hostReset s) ∨
    (∃ bytes, op = .loadImage bytes ∧ imageAccepted bytes = true ∧ hostMove op s = installImage bytes s) ∨
    (∃ cells r, op = .loadWorld cells r ∧ cells.toList.all cellByteAccepted = true ∧ robotAccepted r = true ∧
      hostMove op s = installWorld cells r s) ∨
    (∃ entry, op = .run entry ∧ s.bytecodeValid = true ∧ s.worldValid = true ∧ hostMove op s = startRun entry s) ∨
    (op = .shortCircuit ∧ hostMove op s = hostShortCircuit s) ∨
    (∃ u r, (u = s ∨ u = spendDraw s) ∧ hostMove op s = giveBack r u) ∨
    (∃ c, (c = .badImage ∨ c = .badWorld ∨ c = .worldNotLoaded) ∧ hostEnabled op s = (!s.busy && s.fault.isNone) ∧
      hostMove op s = raiseFault c s) := by
  cases op
  case reset => exact .inl ⟨rfl, rfl⟩
  case loadImage bytes =>
    by_cases h : imageAccepted bytes = true
    · exact .inr (.inl ⟨bytes, rfl, h, by simp [hostMove, hostLoadImage, h]⟩)
    · exact .inr (.inr (.inr (.inr (.inr (.inr ⟨.badImage, .inl rfl, rfl, by simp [hostMove, hostLoadImage, h]⟩)))))
  case loadWorld cells r =>
    by_cases h : (cells.toList.all cellByteAccepted && robotAccepted r) = true
    · have h' := (Bool.and_eq_true ..).mp h
      exact .inr (.inr (.inl ⟨cells, r, rfl, h'.1, h'.2, by simp only [hostMove, hostLoadWorld, h, if_true]⟩))
    · exact .inr (.inr (.inr (.inr (.inr (.inr
        ⟨.badWorld, .inr (.inl rfl), rfl, by simp only [hostMove, hostLoadWorld, h]; rfl⟩)))))
  case run entry =>
    by_cases h : (s.bytecodeValid && s.worldValid) = true
    · have h' := (Bool.and_eq_true ..).mp h
      exact .inr (.inr (.inr (.inl ⟨entry, rfl, h'.1, h'.2, by simp only [hostMove, hostRun, h, if_true]⟩)))
    · exact .inr (.inr (.inr (.inr (.inr (.inl ⟨s, _, .inl rfl, by simp only [hostMove, hostRun, h]; rfl⟩)))))
  case shortCircuit => exact .inr (.inr (.inr (.inr (.inl ⟨rfl, rfl⟩))))
  case readStatus =>
    by_cases h : s.statusWritten = true
    · exact .inr (.inr (.inr (.inr (.inr (.inl ⟨s, _, .inl rfl, by simp only [hostMove, hostReadStatus, h]; rfl⟩)))))
    · exact .inr (.inr (.inr (.inr (.inr (.inl
        ⟨spendDraw s, _, .inr rfl, by simp only [hostMove, hostReadStatus, h]; rfl⟩)))))
  case readWorld =>
    by_cases h : s.worldValid = true
    · exact .inr (.inr (.inr (.inr (.inr (.inl ⟨s, _, .inl rfl, by simp only [hostMove, hostReadWorld, h]; rfl⟩)))))
    · exact .inr (.inr (.inr (.inr (.inr (.inr
        ⟨.worldNotLoaded, .inr (.inr rfl), rfl, by simp only [hostMove, hostReadWorld, h]; rfl⟩)))))
  case readRobot =>
    by_cases h : s.worldValid = true
    · exact .inr (.inr (.inr (.inr (.inr (.inl ⟨s, _, .inl rfl, by simp only [hostMove, hostReadRobot, h]; rfl⟩)))))
    · exact .inr (.inr (.inr (.inr (.inr (.inr
        ⟨.worldNotLoaded, .inr (.inr rfl), rfl, by simp only [hostMove, hostReadRobot, h]; rfl⟩)))))

/-! ## The grid after writing cells -/

/-- The index of a cell in the row-major array names the cell (44_host_operations.md R173). -/
theorem cell_of_index {k : Nat} (h : k < Config.cellCount) : InGrid (k % Config.gridSide) (k / Config.gridSide) := by
  simp only [InGrid, Config.cellCount, Config.gridSide] at *
  omega

/-- A run of cells written from index `k` on: the canonical form is kept, nothing outside `GRID` is listed, the cells
written hold what the bytes say, the cells before them are as they were. -/
theorem importFrom_spec (bytes : List Byte) (k : Nat) (g : Memory) (hg : g.wf)
    (hk : k + bytes.length ≤ Config.cellCount) :
    let g' := (bytes.zipIdx k).foldl
      (fun g p => setCellValue g (p.2 % Config.gridSide) (p.2 / Config.gridSide) (importCell p.1)) g
    g'.wf ∧
    ((∀ c ∈ g, c.1 < Config.gridBytes) → ∀ c ∈ g', c.1 < Config.gridBytes) ∧
    (∀ x y, InGrid x y → x + y * Config.gridSide < k → cellValue g' x y = cellValue g x y) ∧
    (∀ x y j, InGrid x y → x + y * Config.gridSide = k + j → ∀ (hj : j < bytes.length),
      cellValue g' x y = importCell bytes[j]) := by
  induction bytes generalizing k g with
  | nil => exact ⟨hg, fun h => h, fun _ _ _ _ => rfl, fun _ _ j _ _ hj => absurd hj (by simp)⟩
  | cons b bytes ih =>
    simp only [List.length_cons] at hk
    have hin : InGrid (k % Config.gridSide) (k / Config.gridSide) := cell_of_index (by omega)
    simp only [List.zipIdx_cons, List.foldl_cons]
    obtain ⟨h1, h2, h3, h4⟩ := ih (k + 1) _ (setCellValue_wf hg _ _ (importCell b)) (by omega)
    refine ⟨h1, fun h c hc => h2 (fun c hc => ?_) c hc, fun x y hxy hlt => ?_, fun x y j hxy he hj => ?_⟩
    · rcases Memory.mem_write hc with rfl | hc
      · exact cellAddress_lt hin
      · exact h c hc
    · rw [h3 x y hxy (by omega), cellValue_setCellValue hg hin hxy, if_neg]
      rintro ⟨rfl, rfl⟩
      simp only [Config.gridSide] at hlt
      omega
    · cases j with
      | zero =>
        rw [h3 x y hxy (by omega), cellValue_setCellValue hg hin hxy, if_pos]
        · rfl
        · simp only [InGrid, Config.gridSide] at *
          omega
      | succ j => exact h4 x y j hxy (by omega) (by simpa using hj)

/-- The grid an accepted world leaves: canonical, inside `GRID`, every cell as the array says. -/
theorem importCells_spec (cells : CellArray) {g : Memory} (hg : g.wf) :
    (importCells cells g).wf ∧
    ((∀ c ∈ g, c.1 < Config.gridBytes) → ∀ c ∈ importCells cells g, c.1 < Config.gridBytes) ∧
    (∀ x y (h : x + y * Config.gridSide < Config.cellCount), InGrid x y →
      cellValue (importCells cells g) x y = importCell cells[x + y * Config.gridSide]) := by
  obtain ⟨h1, h2, -, h4⟩ := importFrom_spec cells.toList 0 g hg (by simp)
  exact ⟨h1, h2, fun x y h hxy => h4 x y (x + y * Config.gridSide) hxy (by omega) (by simpa using h)⟩

end Sys2Proof.Machine
end

