-- ==== Sys2Proof/Laws/PerInstr.lean ====
section
/-! SUPPORT. The layout of every instruction's encoding, one lemma per constructor. -/
namespace Sys2Proof.Laws.Layout

/-- An encoding has the length its opcode gives (30_encoding.md R80, R94) and begins with a head byte whose tag field
is the opcode's number (R84, R87). -/
def Statement (i : Instr) : Prop :=
  (encode i).length = i.length ∧ (encode i).head?.map headTag = some (Config.tagNumber i.tag)

theorem step : Statement .step := ⟨rfl, rfl⟩

theorem left : Statement .left := ⟨rfl, rfl⟩

theorem pickUp : Statement .pickUp := ⟨rfl, rfl⟩

theorem place : Statement .place := ⟨rfl, rfl⟩

theorem branch (cond : Cond) (inv : Bool) (target : Pc) : Statement (.branch cond inv target) :=
  ⟨rfl, by cases cond <;> cases inv <;> rfl⟩

theorem branchLinked (target : Pc) : Statement (.branchLinked target) := ⟨rfl, rfl⟩

theorem retn : Statement .retn := ⟨rfl, rfl⟩

theorem stop : Statement .stop := ⟨rfl, rfl⟩

theorem repeatLoop (top : Pc) (count : Count) : Statement (.repeatLoop top count) := ⟨rfl, rfl⟩

end Sys2Proof.Laws.Layout
end

