-- ==== Sys2Proof/Laws/Safety.lean ====
section
/-! SUPPORT. Reachability and well-formed images depend on the image alone, and each outcome of a BRANCH and of a REPEAT
is one of the `pc` updates reachability follows. -/
namespace Sys2Proof.Safety
open Sys2Proof.Machine

theorem reachable_congr {s t : State} (hi : t.image = s.image) (hl : t.imageLen = s.imageLen) {entry a : Nat}
    {calls : List Nat} (h : Reachable s entry a calls) : Reachable t entry a calls := by
  induction h with
  | start => exact .start
  | follow a b calls calls' i _ hd hb ih => exact .follow a b calls calls' i ih ((decodeAt_congr hi hl a).trans hd) hb

theorem wellFormedImage_congr {s t : State} (hi : t.image = s.image) (hl : t.imageLen = s.imageLen) {entry : Nat}
    (h : WellFormedImage s entry) : WellFormedImage t entry := by
  obtain ⟨⟨h1, h2⟩, h3, h4⟩ := h
  refine ⟨⟨hl ▸ h1, hi ▸ h2⟩, hl ▸ h3, fun a calls ha => ?_⟩
  obtain ⟨i, hd, hw⟩ := h4 a calls (reachable_congr hi.symm hl.symm ha)
  exact ⟨i, (decodeAt_congr hi hl a).trans hd, hw⟩

/-- 42_control_transfer.md R143: where a BRANCH goes is one of its `pc` updates. -/
theorem branch_mem_pcUpdates (a : Nat) (calls : List Nat) {cond : Cond} {inv b : Bool} (target : Pc) {s : State}
    (h : condTrue cond inv s = .ok b) :
    ((if b then target.toNat else a + 5), calls) ∈ pcUpdates a calls (.branch cond inv target) := by
  cases cond <;> cases inv <;> cases b <;> simp [pcUpdates] <;> simp at h

/-- 43_repeat.md R162: every REPEAT may finish. -/
theorem finish_mem_pcUpdates (a : Nat) (calls : List Nat) (top : Pc) (count : Count) :
    (a + 7, calls) ∈ pcUpdates a calls (.repeatLoop top count) := by
  simp only [pcUpdates]
  split <;> simp

/-- 43_repeat.md R162: every REPEAT with another count than 1 may go round. -/
theorem goRound_mem_pcUpdates (a : Nat) (calls : List Nat) (top : Pc) {count : Count} (h : count ≠ 1) :
    (top.toNat, calls) ∈ pcUpdates a calls (.repeatLoop top count) := by
  simp only [pcUpdates, if_neg h, List.mem_cons, true_or]

end Sys2Proof.Safety
end

