-- ==== Sys2Proof/Tests/Slice0.lean ====
section
/-! SUPPORT. Small tests, their expected results taken from spec/95_test_vectors.md and the encoding tables of
30_encoding.md, and for every statement with hypotheses a witness that meets them. -/
namespace Sys2Proof.Tests
open Sys2Proof.Machine Sys2Proof.Safety

/-! ## States to test on -/

/-- The standard start of 95_test_vectors.md: empty grid, robot at (5,5) facing North, home (5,5). -/
def standard : State := { State.reset with px := 5, py := 5, hx := 5, hy := 5, status := 1, statusWritten := true }

/-- A run about to execute the given bytes at offset 1. -/
def ready (bytes : List Byte) (s : State) : State := placeInstruction bytes s

/-- The grid with the given cells, all others 0. -/
def cells (l : List (Nat × Nat × Nibble)) : Memory :=
  l.foldl (fun g c => setCellValue g c.1 c.2.1 c.2.2) []

/-- The next state, if there is one. -/
def after (s : State) : Option State :=
  match step s with
  | .next t => some t
  | _ => none

/-- What an observation of the next state shows. -/
def shows {α : Type} (s : State) (f : State → α) : Option α := (after s).map f

/-- 00_scope.md R5: the constants meet the constraints put on them. -/
theorem test_config_valid : Config.Valid := by
  unfold Config.Valid
  decide

/-! ## Well-formedness -/

/-- 43_repeat.md R164: the one ill-formed term is a REPEAT with count 0. -/
theorem test_repeat_zero_is_ill_formed : (Instr.repeatLoop 1 0).wellFormed = false := by decide

theorem test_repeat_one_is_well_formed : (Instr.repeatLoop 1 1).wellFormed = true := by decide

/-! ## Decoding: words written out bit by bit, `inv cond tag` for the head byte (30_encoding.md R84, R87, R88) -/

theorem test_decode_step : decode [0b0_000_0000] = .ok (.step, []) := by rfl

theorem test_decode_left : decode [0b0_000_0001] = .ok (.left, []) := by rfl

theorem test_decode_pick_up : decode [0b0_000_0010] = .ok (.pickUp, []) := by rfl

theorem test_decode_place : decode [0b0_000_0011] = .ok (.place, []) := by rfl

/-- BRANCH.NOT.IS_FLAG 12. -/
theorem test_decode_branch :
    decode [0b1_010_0100, 0x0C, 0x00, 0x00, 0x00] = .ok (.branch .isFlag true 12, []) := by rfl

/-- 95_test_vectors.md section 2.2: BRANCH_LINKED 305419896. -/
theorem test_decode_branch_linked :
    decode [0b0_000_0101, 0x78, 0x56, 0x34, 0x12] = .ok (.branchLinked 305419896, []) := by rfl

theorem test_decode_retn : decode [0b0_000_0110] = .ok (.retn, []) := by rfl

theorem test_decode_stop : decode [0b0_000_0111] = .ok (.stop, []) := by rfl

/-- 95_test_vectors.md section 2.2: REPEAT 1, 65535, and a byte left over. -/
theorem test_decode_repeat :
    decode [0b0_000_1000, 0x01, 0x00, 0x00, 0x00, 0xFF, 0xFF, 0x06] = .ok (.repeatLoop 1 65535, [0x06]) := by rfl

/-- V8, V9: tag 15, and tag 9 with a condition, are illegal tags. -/
theorem test_decode_illegal_tag :
    decode [0x0F] = .error .illegalTag ∧ decode [0x19] = .error .illegalTag := ⟨rfl, rfl⟩

/-- V11, V14: an invert bit on LEFT and on BRANCH_LINKED. -/
theorem test_decode_reserved_field :
    decode [0x81] = .error .reservedField ∧ decode [0x85, 1, 0, 0, 0] = .error .reservedField := ⟨rfl, rfl⟩

/-- V16, V16a, V16b: what is truncated is out of range before it is reserved. -/
theorem test_decode_truncated :
    decode [0x04, 1, 0] = .error .fetchRange ∧ decode [0x15] = .error .fetchRange ∧
    decode [0x08, 1, 0, 0, 0, 3] = .error .fetchRange := ⟨rfl, rfl, rfl⟩

/-- The opcode table's bit numbering: the head byte is bits 7..0, the count of a REPEAT bits 55..40. -/
theorem test_table_word :
    decodeTableWord 56 0x00020000000108 = some (.repeatLoop 1 2) ∧ decodeTableWord 8 0x05 = some (.branchLinked 0) :=
  ⟨rfl, rfl⟩

/-- The instruction placed for the fetch is the one the next step runs: PLACE as the first instruction after reset. -/
theorem test_with_fetch_word :
    shows (State.reset.withFetchWord 8 0x03) (fun t => (t.pc, cellValue t.grid 0 0)) = some (2, 1) := by decide

/-! ## Instructions, one step each -/

/-- V17: STEP north from (5,18). -/
theorem test_step_moves :
    shows (ready [0x00] { standard with py := 18 }) (fun t => (t.px, t.py, t.pc)) = some (5, 19, 2) := by decide

/-- V25: a wall at (5,6). -/
theorem test_step_into_wall :
    shows (ready [0x00] { standard with grid := cells [(5, 6, 15)] })
      (fun t => (t.status, t.busy, t.px, t.py, t.pc)) = some (8, false, 5, 5, 1) := by decide

/-- S2: the fourth LEFT comes back to North. -/
theorem test_left_wraps :
    shows (ready [0x01] { standard with d := 3 }) (fun t => (t.d, t.pc)) = some (0, 2) := by decide

/-- V3, V26: PICK_UP from 8 at (5,5), the high nibble of GRID[52]; the wall at (4,5) in its low nibble stays. -/
theorem test_pick_up_keeps_the_other_nibble :
    shows (ready [0x02] { standard with grid := [(52, 0x8F)] }) (fun t => t.grid) = some [(52, 0x7F)] := by decide

/-- S3: PICK_UP on an empty cell. -/
theorem test_pick_up_empty :
    shows (ready [0x02] standard) (fun t => (t.status, t.busy, t.grid, t.pc)) = some (9, false, [], 1) := by decide

/-- V26: PLACE on an empty grid turns GRID[52] from 00 into 10. -/
theorem test_place_writes_the_high_nibble :
    shows (ready [0x03] standard) (fun t => t.grid) = some [(52, 0x10)] := by decide

/-- V26: PLACE on 8, and on a wall. -/
theorem test_place_full_and_wall :
    shows (ready [0x03] { standard with grid := cells [(5, 5, 8)] }) (fun t => t.status) = some 10 ∧
    shows (ready [0x03] { standard with grid := cells [(5, 5, 15)] }) (fun t => t.fault) =
      some (some .cellNotFlagcount) := by decide

/-- V27, state F: IS_FLAG is false on a wall cell, so NOT.IS_FLAG is taken. -/
theorem test_branch_on_a_wall_cell :
    shows (ready [0xA4, 0x0B, 0, 0, 0] { standard with d := 2, grid := cells [(5, 5, 15)] }) (fun t => t.pc) =
      some 11 := by decide

/-- V27, state G: at the edge IS_WALL is true, so NOT.IS_WALL falls through. -/
theorem test_branch_at_the_edge :
    shows (ready [0x94, 0x0B, 0, 0, 0] { standard with px := 19, py := 0, d := 3 }) (fun t => t.pc) = some 6 := by
  decide

/-- S5: BRANCH_LINKED 8 pushes 6. -/
theorem test_branch_linked_pushes :
    shows (ready [0x05, 0x08, 0, 0, 0] standard) (fun t => (t.callStack, t.depth, t.pc)) = some ([6], 1, 8) := by
  decide

/-- V33, V34: at depth 512 the draw decides; if it fails, the run ends with the call stack, the depth and `pc` as they
were. -/
theorem test_branch_linked_past_fast_depth :
    shows (ready [0x05, 0x01, 0, 0, 0] { standard with depth := 512 })
      (fun t => (t.status, t.callStack, t.depth, t.pc)) =
      if Config.growOk 0 then some (1, [6], 513, 1) else some (2, [], 512, 1) := by
  have hs : step (ready [0x05, 0x01, 0, 0, 0] { standard with depth := 512 }) =
      exec (.branchLinked 1) (ready [0x05, 0x01, 0, 0, 0] { standard with depth := 512 }) := by rfl
  have hd : (ready [0x05, 0x01, 0, 0, 0] { standard with depth := 512 }).draws = 0 := rfl
  simp only [shows, after, hs, exec, execBranchLinked, openFrame]
  rw [if_neg (by decide), hd]
  split <;> rfl

/-- V32: RETN pops the newest return offset. -/
theorem test_retn_pops :
    shows (ready [0x06] { standard with callStack := [12, 6], depth := 2 }) (fun t => (t.callStack, t.depth, t.pc)) =
      some ([6], 1, 12) := by decide

/-- S1: RETN with the call stack empty. -/
theorem test_retn_at_the_root :
    shows (ready [0x06] { standard with status := 1 }) (fun t => (t.status, t.busy)) = some (0, false) := by decide

/-- 42_control_transfer.md R151: STOP at depth 2 ends the run. -/
theorem test_stop_at_depth :
    shows (ready [0x07] { standard with callStack := [12, 6], depth := 2 }) (fun t => (t.status, t.busy, t.callStack)) =
      some (11, false, [12, 6]) := by decide

/-- S4, step 2, with the loop at offset 1: a first visit opens the frame and counts. -/
theorem test_repeat_first_visit :
    shows (ready [0x08, 0x01, 0, 0, 0, 0x03, 0] standard) (fun t => (t.curRepeat, t.depth, t.pc)) =
      some (some ⟨1, 2⟩, 1, 1) := by decide

/-- S4, step 6: the last visit closes the frame; here an outer loop comes back. -/
theorem test_repeat_closes :
    shows (ready [0x08, 0x01, 0, 0, 0, 0x03, 0]
        { standard with curRepeat := some ⟨1, 1⟩, repeatStack := [⟨40, 7⟩], depth := 2 })
      (fun t => (t.curRepeat, t.repeatStack, t.depth, t.pc)) = some (some ⟨40, 7⟩, [], 1, 8) := by decide

/-! ## Fetch and host operations -/

/-- V16a, V16d: the fetch faults in the order of the checks. -/
theorem test_fetch_faults :
    shows (ready [0x15] standard) (fun t => t.fault) = some (some .fetchRange) ∧
    shows { ready [0x00] standard with pc := 2 } (fun t => (t.fault, t.px, t.pc)) = some (some .fetchRange, 5, 2) := by
  decide

/-- S6: with the mask at 0 the step fetches the RETN at offset 0. -/
theorem test_short_circuit_fetches_at_zero :
    shows { ready [0x01, 0x04, 1, 0, 0, 0] standard with pc := 2, shortMask := 0 } (fun t => (t.status, t.busy, t.d)) =
      some (0, false, 0) := by decide

/-- What a host operation leaves, seen through `f`. -/
def host {α : Type} (op : HostOp) (s : State) (f : State → α) : Option α :=
  shows { s with agenda := [.host op] } f

/-- V51: refused images, and an accepted one. -/
theorem test_load_image :
    host (.loadImage []) State.reset (fun t => (t.fault, t.bytecodeValid)) = some (some .badImage, false) ∧
    host (.loadImage [0x00, 0x06]) State.reset (fun t => t.fault) = some (some .badImage) ∧
    host (.loadImage [0x86]) State.reset (fun t => t.fault) = some (some .badImage) ∧
    host (.loadImage [0x06]) State.reset (fun t => (t.fault, t.imageLen, t.image)) = some (none, 1, [(0, 0x06)]) := by
  decide

/-- The 400 bytes whose byte at index `k` is `b` and all others 0. -/
def oneCell (k : Nat) (b : Byte) : CellArray := (Vector.replicate Config.cellCount 0).setIfInBounds k b

/-- V54: an accepted world. -/
theorem test_load_world :
    host (.loadWorld (oneCell 125 255) ⟨5, 5, 0, 5, 5⟩) State.reset (fun t => (t.fault, t.worldValid, t.px)) =
      some (none, true, 5) := by decide +kernel

/-- V54, by the array's index: byte 255 at 125 is a wall in cell (5,6), and byte 3 at 105 is three flags in (5,5). -/
theorem test_load_world_cells :
    cellValue (importCells (oneCell 125 255) []) 5 6 = 15 ∧ cellValue (importCells (oneCell 105 3) []) 5 5 = 3 := by
  constructor
  · rw [(importCells_spec _ Memory.wf_nil).2.2 5 6 (by decide) (by decide)]
    decide +kernel
  · rw [(importCells_spec _ Memory.wf_nil).2.2 5 5 (by decide) (by decide)]
    decide +kernel

/-- V52: a cell byte 9, a cell byte 15, a column 20 and a facing 4 are refused. -/
theorem test_load_world_refusals :
    host (.loadWorld (oneCell 0 9) ⟨5, 5, 0, 5, 5⟩) State.reset (fun t => t.fault) = some (some .badWorld) ∧
    host (.loadWorld (oneCell 399 15) ⟨5, 5, 0, 5, 5⟩) State.reset (fun t => t.fault) = some (some .badWorld) ∧
    host (.loadWorld (oneCell 0 0) ⟨20, 5, 0, 5, 5⟩) State.reset (fun t => t.fault) = some (some .badWorld) ∧
    host (.loadWorld (oneCell 0 0) ⟨5, 5, 4, 5, 5⟩) State.reset (fun t => t.fault) = some (some .badWorld) := by
  decide +kernel

/-- V54: the wall in cell (5,6), the high nibble of GRID[62], comes back as byte 255 at index 125, and cell (4,6) as 0. -/
theorem test_read_world :
    (exportCells [(62, 0xF0)])[125] = 255 ∧ (exportCells [(62, 0xF0)])[124] = 0 := by decide +kernel

/-- 44_host_operations.md R176, 70_reset_and_hazards.md R230: what `HostRun` gives back when its run ends, and nothing
when a reset abandons it (log entry 20). -/
theorem test_run_result :
    shows (ready [0x07] standard) hostRunResult = some (some 11) ∧
    host .reset (ready [0x07] standard) hostRunResult = some none := by decide

/-- V50, V53: after reset a run is turned away with STATE_NOT_VALID and a read-back refused. -/
theorem test_before_loading :
    host (.run 1) State.reset (fun t => (t.reply, t.busy, t.fault)) = some (some (.status 6), false, none) ∧
    host .readRobot State.reset (fun t => t.fault) = some (some .worldNotLoaded) := by decide

/-- V56: during a run the status reads IN_PROGRESS, and another `HostRun` has no move (the interpreter steps). -/
theorem test_during_a_run :
    host .readStatus { ready [0x01] standard with agenda := [] } (fun t => t.reply) = some (some (.status 1)) ∧
    host (.run 1) (ready [0x01] standard) (fun t => (t.d, t.pc, t.agenda)) = some (1, 2, [.host (.run 1)]) := by decide

/-! ## Witnesses: states and operands that meet the hypotheses of the statements, at the bounds of their ranges -/

/-- A run about to execute STOP. -/
def aRun : State := ready [0x07] standard

/-- The same machine before the run. -/
def loaded : State := { aRun with busy := false, status := 0 }

theorem empty_grid_legal {s : State} (hg : s.grid = []) (hin : InGrid s.px.toNat s.py.toNat) : WorldLegal s := by
  refine ⟨fun x y _ => .inl ?_, hin⟩
  rw [hg]
  simp only [cellValue, nibbleOf, Memory.read_nil, Memory.unlisted]
  split <;> decide

theorem legal_of_empty_grid {s : State} (hm : MemoryLegal s) (hg : s.grid = []) (hin : InGrid s.px.toNat s.py.toNat)
    (hi : ImageLegal s) (hs : StatusLegal s) (hv : s.bytecodeValid = true ∧ s.worldValid = true)
    (he : s.depth = openFrames s ∧ FramesLegal s ∧ NestingLegal s) : Legal s :=
  ⟨hm, fun _ => empty_grid_legal hg hin, fun _ => hi, hs, fun _ => hv, fun _ => he.1, fun _ => he.2.1, fun _ => he.2.2⟩

theorem aRun_memory : MemoryLegal aRun := by
  refine ⟨Memory.wf_nil, Memory.ofBytes_wf _, by simp [aRun, ready, placeInstruction, standard, State.reset], ?_⟩
  intro c hc
  exact (Memory.mem_ofBytesFrom hc).2

theorem aRun_image : ImageLegal aRun := ⟨by decide, by decide⟩

/-- `Legal`, in a run: LegalStatesStayLegal, ReadStatusReturnsTheRegister. -/
theorem test_witness_legal_run : Legal aRun ∧ aRun.busy = true ∧ ∃ t, step aRun = .next t :=
  ⟨legal_of_empty_grid aRun_memory rfl (by decide) aRun_image ⟨rfl, rfl⟩ ⟨rfl, rfl⟩
    ⟨rfl, by simp [FramesLegal, aRun, ready, placeInstruction, standard, State.reset], by intro _; rfl⟩, rfl, _, rfl⟩

/-- `Legal`, between runs, with a terminal status. -/
theorem test_witness_legal_idle : Legal loaded ∧ loaded.busy = false ∧ loaded.statusWritten = true :=
  ⟨legal_of_empty_grid aRun_memory rfl (by decide) aRun_image (fun _ => ⟨.success, by decide, rfl⟩) ⟨rfl, rfl⟩
    ⟨rfl, by simp [FramesLegal, loaded, aRun, ready, placeInstruction, standard, State.reset], by intro _; rfl⟩, rfl, rfl⟩

/-- 42_control_transfer.md R140, R141, 43_repeat.md R162: the instructions that leave one `pc` update only. -/
theorem test_one_pc_update :
    pcUpdates 2 [] (.branch .none false 1) = [(1, [])] ∧ pcUpdates 1 [] (.branch .none true 255) = [(6, [])] ∧
    pcUpdates 1 [] (.repeatLoop 255 1) = [(8, [])] ∧ pcUpdates 9 [6] .retn = [(6, [])] := by decide

/-- `WellFormedImage`: from offset 1 only the STOP there is reachable. -/
theorem aRun_wellFormed (s : State) (hi : s.image = aRun.image) (hl : s.imageLen = aRun.imageLen) :
    WellFormedImage s 1 := by
  have hd : decodeAt s 1 = .ok .stop := by
    rw [decodeAt_congr hi hl]
    rfl
  have only : ∀ a calls, Reachable s 1 a calls → a = 1 := by
    intro a calls ha
    induction ha with
    | start => rfl
    | follow a b calls calls' i _ hdi hb ih =>
      rw [ih, hd] at hdi
      cases hdi
      simp [pcUpdates] at hb
  refine ⟨⟨by rw [hl]; decide, by rw [hi]; decide⟩, by rw [hl]; decide, fun a calls ha => ?_⟩
  rw [only a calls ha]
  exact ⟨.stop, hd, rfl⟩

/-- S6: the image 06 01 04 01 00 00 00, whose one path ends in the unconditional branch at its end. -/
def endless : State := ready [0x01, 0x04, 0x01, 0x00, 0x00, 0x00] standard

/-- S6's image is well formed for entry point 1 (70_reset_and_hazards.md R238). -/
theorem test_image_ending_in_a_branch : WellFormedImage endless 1 := by
  have h1 : decodeAt endless 1 = .ok .left := by rfl
  have h2 : decodeAt endless 2 = .ok (.branch .none false 1) := by rfl
  have only : ∀ a calls, Reachable endless 1 a calls → a = 1 ∨ a = 2 := by
    intro a calls ha
    induction ha with
    | start => exact .inl rfl
    | follow a b calls calls' i _ hd hb ih =>
      rcases ih with rfl | rfl
      · rw [h1] at hd
        cases hd
        simp [pcUpdates] at hb
        exact .inr hb.1
      · rw [h2] at hd
        cases hd
        simp [pcUpdates] at hb
        exact .inl hb.1
  refine ⟨⟨by decide, by decide⟩, by decide, fun a calls ha => ?_⟩
  rcases only a calls ha with rfl | rfl
  · exact ⟨_, h1, rfl⟩
  · exact ⟨_, h2, rfl⟩

/-- SafeRunNeverFaults, first part. -/
theorem test_witness_safe_start :
    Legal loaded ∧ loaded.busy = false ∧ loaded.fault = none ∧ loaded.bytecodeValid = true ∧
    loaded.worldValid = true ∧ WellFormedImage loaded (1 : Pc).toNat ∧
    cellValue loaded.grid loaded.px.toNat loaded.py.toNat ≠ Config.wall :=
  ⟨test_witness_legal_idle.1, rfl, rfl, rfl, rfl, aRun_wellFormed _ rfl rfl, by decide⟩

/-- SafeRunNeverFaults, second part. -/
theorem test_witness_safe_run : SafeRun 1 aRun ∧ aRun.busy = true ∧ aRun.agenda = [] :=
  ⟨⟨test_witness_legal_run.1, aRun_wellFormed _ rfl rfl, fun _ _ => .start,
    fun _ => by simp [FramesCountDown, aRun, ready, placeInstruction, standard, State.reset], by decide, rfl⟩, rfl, rfl⟩

/-- DecodedBytesAreTheEncoding. -/
theorem test_witness_decoded : decode [0x06, 0xFF] = .ok (.retn, [0xFF]) := by rfl

/-- HeadBytesSplitThreeWays: the least tag of no instruction, the least reserved head byte, and the two ends of the
legal ones. -/
theorem test_witness_head_bytes :
    9 ≤ (0x09 : Byte).toNat % 16 ∧
    ((0x10 : Byte).toNat % 16 < 9 ∧ (0x10 : Byte).toNat % 16 ≠ 4 ∧ 16 ≤ (0x10 : Byte).toNat) ∧
    ((0xF4 : Byte).toNat % 16 < 9 ∧ (0xF4 : Byte).toNat % 16 = 4) ∧
    ((0x08 : Byte).toNat % 16 < 9 ∧ (0x08 : Byte).toNat < 16) ∧ 6 ≤ [0, 0, 0, 0, 0, (0 : Byte)].length := by decide

/-- GridGetReadsTheCellNibble, GridSetWritesOneNibble: V1, the last cell; V4, the first. -/
theorem test_witness_grid :
    Memory.wf [(199, 0xF7)] ∧ 19 < Config.gridSide ∧
    gridGet [(199, 0xF7)] 19 19 = .ok 15 ∧ gridGet [(199, 0xF7)] 18 19 = .ok 7 ∧
    gridSet [(0, 0xF7)] 0 0 2 = .ok [(0, 0xF2)] := by
  refine ⟨by decide, by decide, by rfl, by rfl, by rfl⟩

/-- GridAccessOutsideFaults: V5 for the first part; a legal world for the second. -/
theorem test_witness_grid_outside :
    gridGet [] 20 0 = .error .gridRange ∧ gridGet [] 0 20 = .error .gridRange ∧ WorldLegal aRun ∧
    aRun.fault = none ∧ ∃ t, exec .stop aRun = .next t :=
  ⟨by rfl, by rfl, empty_grid_legal rfl (by decide), rfl, _, rfl⟩

/-- OutOfGridAccessRecordsTheFault: a robot off the grid, facing a cell off the grid. -/
theorem test_witness_off_grid :
    previewStep { standard with px := 20, py := 18 } = some (20, 19) ∧
    gridGet [] (20 : Word).toNat (19 : Word).toNat = .error .gridRange ∧
    gridGet [] (20 : Word).toNat (18 : Word).toNat = .error .gridRange := ⟨by rfl, by rfl, by rfl⟩

/-- PreviewStepTable: V17 to V24, both sides of every bound. -/
theorem test_witness_preview :
    previewStep { standard with py := 19 } = none ∧ previewStep { standard with py := 18 } = some (5, 19) ∧
    previewStep { standard with d := 1, px := 0 } = none ∧
    previewStep { standard with d := 1, px := 1 } = some (0, 5) ∧
    previewStep { standard with d := 2, py := 0 } = none ∧
    previewStep { standard with d := 2, py := 1 } = some (5, 0) ∧
    previewStep { standard with d := 3, px := 19 } = none ∧
    previewStep { standard with d := 3, px := 18 } = some (19, 5) := by decide

/-- A run with the given value in the cell ahead. -/
def facing (v : Nibble) : State := { aRun with grid := cells [(5, 6, v)] }

/-- A run with the given value in the robot's cell. -/
def standing (v : Nibble) : State := { aRun with grid := cells [(5, 5, v)] }

/-- StepMovesOrEndsTheRun, WallAheadIsAFailingStep, RawConditionTable: no cell ahead, a wall ahead, and, V25a, a full
cell ahead. -/
theorem test_witness_ahead :
    previewStep { standard with py := 19 } = none ∧
    (previewStep (facing 15) = some (5, 6) ∧ gridGet (facing 15).grid 5 6 = .ok 15) ∧
    (previewStep (facing 8) = some (5, 6) ∧ gridGet (facing 8).grid 5 6 = .ok 8) ∧ (facing 8).busy = true := by
  refine ⟨by rfl, ⟨by rfl, by rfl⟩, ⟨by rfl, by rfl⟩, rfl⟩

/-- PickUpTakesOneFlag, PlaceAddsOneFlag, RawConditionTable: V26, the values of the robot's cell. -/
theorem test_witness_here :
    ∀ v ∈ [0, 1, 7, 8, 9, (15 : Nibble)], (standing v).grid.wf ∧
      cellValue (standing v).grid (standing v).px.toNat (standing v).py.toNat = v ∧
      InGrid (standing v).px.toNat (standing v).py.toNat := by decide

/-- FailingPrimitiveIsNotApplied: a PICK_UP that ends a run. -/
theorem test_witness_failing_primitive :
    aRun.busy = true ∧ ∃ t, exec .pickUp aRun = .next t ∧ t.busy = false := ⟨rfl, _, rfl, rfl⟩

/-- BranchJumpsOrFallsThrough: a condition with a value, and a legal world. -/
theorem test_witness_branch : rawCond .isHome standard = .ok true ∧ WorldLegal standard :=
  ⟨by rfl, empty_grid_legal rfl (by decide)⟩

/-- FrameOpeningMayFailOnlyPastFastDepth, BranchLinkedPushesTheReturnOffset: both sides of the bound. -/
theorem test_witness_depth :
    ({ standard with depth := 511 } : State).depth < 512 ∧ 512 ≤ ({ standard with depth := 512 } : State).depth := by
  decide

/-- RetnPopsOrEndsTheRun. -/
theorem test_witness_retn :
    standard.callStack = [] ∧ ({ standard with callStack := [6] } : State).callStack = [6] := ⟨rfl, rfl⟩

/-- RepeatOpensClosesOrGoesRound: a frame of this REPEAT with 2 and with 1 left; no frame, and another's frame, at
both sides of the depth bound, with count 0 and count 1. -/
theorem test_witness_repeat :
    ({ standard with curRepeat := some ⟨0, 2⟩ } : State).curRepeat = some ⟨standard.pc, 2⟩ ∧ (2 : Count) ≠ 1 ∧
    ({ standard with curRepeat := some ⟨0, 1⟩ } : State).curRepeat = some ⟨standard.pc, 1⟩ ∧
    (∀ f, standard.curRepeat = some f → f.origin ≠ standard.pc) ∧
    (∀ f, ({ standard with curRepeat := some ⟨9, 1⟩, depth := 512 } : State).curRepeat = some f →
      f.origin ≠ standard.pc) ∧
    (0 : Count) = 0 ∧ (1 : Count) ≠ 0 ∧ standard.depth < 512 := by
  refine ⟨rfl, by decide, rfl, fun f h => ?_, fun f h => ?_, rfl, by decide, by decide⟩
  · cases h
  · cases h
    decide

/-- RepeatRunsItsBodyCountTimes: the empty body, which only comes back to the REPEAT, with no outer loop and with one,
for the least and the greatest count. -/
theorem test_witness_loop_body :
    BodyReturnsTo standard.pc (fun u => { u with pc := standard.pc }) ∧ (1 : Count) ≠ 0 ∧ (65535 : Count) ≠ 0 ∧
    0 + 1 < (2 : Count).toNat ∧ standard.depth < Config.fastDepth ∧
    (∀ f, standard.curRepeat = some f → f.origin ≠ standard.pc) ∧ NestingLegal standard ∧
    NestingLegal { standard with curRepeat := some ⟨9, 1⟩ } := by
  refine ⟨fun u => ⟨rfl, rfl, rfl, rfl⟩, by decide, by decide, by decide, by decide, fun f h => ?_, fun _ => rfl,
    fun h => ?_⟩
  · cases h
  · cases h

/-- StepRunsTheDecodedInstruction: the three agendas, and both masks. -/
theorem test_witness_step :
    aRun.busy = true ∧ aRun.fault = none ∧ decodeAt aRun (fetchAddress aRun).toNat = .ok .stop ∧ aRun.agenda = [] ∧
    ({ aRun with agenda := [.interpreter] } : State).agenda = [.interpreter] ∧
    ({ aRun with agenda := [.host .readWorld] } : State).agenda = [.host .readWorld] ∧
    HostOp.readWorld ≠ .reset ∧ aRun.shortMask = 1 ∧ ({ aRun with shortMask := 0 } : State).shortMask = 0 :=
  ⟨rfl, rfl, by rfl, rfl, rfl, rfl, by decide, rfl, rfl⟩

/-- FetchFaultsAreRecorded: V16d (the fetch at `IMAGE_LEN`), V7, V16b (one byte short), V15 (nothing short). -/
theorem test_witness_fetch :
    step { aRun with pc := 2 } = .next { aRun with pc := 2, fault := some .fetchRange } ∧
    step (ready [0x09] standard) = .next { ready [0x09] standard with fault := some .illegalTag } ∧
    step (ready [0x08, 1, 0, 0, 0, 3] standard) =
      .next { ready [0x08, 1, 0, 0, 0, 3] standard with fault := some .fetchRange } ∧
    step (ready [0x88, 1, 0, 0, 0, 3, 0] standard) =
      .next { ready [0x88, 1, 0, 0, 0, 3, 0] standard with fault := some .reservedField } := by
  refine ⟨by rfl, by rfl, by rfl, by rfl⟩

/-- MaskedFetchExecutesRetn, InterruptedRunUnwindsInKPlusOneSteps: two open call frames (V48). -/
theorem test_witness_interrupted :
    let s := { aRun with shortMask := 0, callStack := [6, 6], depth := 2 }
    ImageLegal s ∧ s.busy = true ∧ s.fault = none ∧ s.agenda = [] ∧ s.shortMask = 0 ∧ 2 ≤ s.callStack.length ∧
    ∃ t, step s = .next t :=
  ⟨aRun_image, rfl, rfl, rfl, rfl, by decide, _, rfl⟩

/-- RunPublishesAtMostOneStatus, ProgramCounterUpdates: a step that ends the run, and one that goes on. -/
theorem test_witness_publishes :
    aRun.agenda = [] ∧ aRun.busy = true ∧ aRun.statusWritten = true ∧ aRun.fault = none ∧
    (∃ t, step aRun = .next t ∧ exec .stop aRun = .next t ∧ t.busy = false) ∧
    ∃ t, exec .left aRun = .next t ∧ t.fault = none ∧ t.busy = true :=
  ⟨rfl, rfl, rfl, rfl, ⟨_, rfl, rfl, rfl⟩, _, rfl, rfl, rfl⟩

/-- NoInstructionWritesImageHomeOrControls, OnlyTheNamedInstructionsWriteEachRegister, WallsAreNeverCreatedOrRemoved,
DepthCountsTheOpenFrames, RepeatCountsNeverReachZero, WorldStaysLegal: a state in which an instruction completes. -/
theorem test_witness_frame :
    let s := { standard with curRepeat := some ⟨9, 1⟩, depth := 1 }
    s.grid.wf ∧ WorldLegal s ∧ s.depth = openFrames s ∧ FramesLegal s ∧
    ∃ t, exec .place s = .next t ∧ (gridGet t.grid 5 5 = .ok 1) := by
  refine ⟨Memory.wf_nil, empty_grid_legal rfl (by decide), rfl, fun f hf => ?_, _, rfl, by rfl⟩
  simp only [standard, State.reset, Option.toList_some, List.append_nil, List.mem_singleton] at hf
  rw [hf]
  decide

/-- OnlyLoadsResetAndRunsChangeTheWorld, OnlyTheHostWritesTheMask, StatusHoldsOnlyTheBlocksCodes,
ResetLeavesTheStatedValues, HostOperationsAreEnabledOrHaveNoMove: every kind of turn. -/
theorem test_witness_host_turn :
    ({ aRun with agenda := [.host .readStatus] } : State).agenda = .host .readStatus :: [] ∧
    hostEnabled .readStatus aRun = true ∧ hostEnabled (.run 1) aRun = false ∧ hostEnabled (.run 1) loaded = true ∧
    hostEnabled .reset { aRun with fault := some .repeatZero } = true ∧
    (∃ t, step { aRun with agenda := [.host .readStatus] } = .next t) ∧
    State.reset.fault = none ∧ (hostMove .readWorld State.reset).fault ≠ none := by
  refine ⟨rfl, rfl, rfl, rfl, rfl, ⟨_, rfl⟩, rfl, by decide⟩

/-- LoadImageInstallsTheBytes: V51, accepted and refused. -/
theorem test_witness_load_image :
    (1 ≤ [(0x06 : Byte)].length ∧ [(0x06 : Byte)].length ≤ 2 ^ 32 - 1 ∧ [(0x06 : Byte)].head? = some 0x06) ∧
    ¬ (([] : List Byte).head? = some 0x06) := by decide

/-- LoadWorldReplacesTheWorld, WorldRoundTrip, WorldStaysLegal: V52, an accepted record at the corner, with a home the
grid does not have. -/
theorem test_witness_load_world :
    loaded.grid.wf ∧ loaded.fault = none ∧
    (∀ b ∈ (oneCell 0 255).toList, b.toNat ≤ Config.maxFlags ∨ b.toNat = 255) ∧
    (hostMove (.loadWorld (oneCell 0 255) ⟨19, 19, 3, 1000, 0⟩) loaded).fault = none := by
  have each : ∀ b : Byte, cellByteAccepted b = true → b.toNat ≤ Config.maxFlags ∨ b.toNat = 255 := by decide
  have all : (oneCell 0 255).toList.all cellByteAccepted = true := by decide +kernel
  exact ⟨Memory.wf_nil, rfl, fun b hb => each b (List.all_eq_true.1 all b hb), by decide +kernel⟩

/-- ReadWorldReturnsEveryCell, ReadRobotReturnsTheRegisters, RunStartsAFreshExecution, ShortCircuitIsALevel,
ReadStatusReturnsTheRegister: both values of each flag. -/
theorem test_witness_flags :
    loaded.worldValid = true ∧ State.reset.worldValid = false ∧ loaded.bytecodeValid = true ∧
    State.reset.bytecodeValid = false ∧ loaded.statusWritten = true ∧ State.reset.statusWritten = false :=
  ⟨rfl, rfl, rfl, rfl, rfl, rfl⟩

/-- NextRunForgetsTheLast: the end of V44, its left-over frame kept or not, and the next run. -/
theorem test_witness_forgets :
    let s := { loaded with curRepeat := some ⟨19, 1⟩, depth := 1, agenda := [.host (.run 1)] }
    let u := { loaded with agenda := [.host (.run 1)] }
    s.busy = false ∧ SameButExecution s u ∧ ∃ t, step s = .next t ∧ t.busy = true :=
  ⟨rfl, rfl, _, rfl, rfl⟩

/-- FaultIsSticky: a faulted block, idle, and with a host operation that is enabled all the same. -/
theorem test_witness_faulted :
    let s := { aRun with fault := some .repeatZero, agenda := [.host .shortCircuit] }
    s.fault = some .repeatZero ∧ (∃ t, step s = .next t) ∧ ∀ rest, s.agenda ≠ .host .reset :: rest := by
  refine ⟨rfl, ⟨_, rfl⟩, fun rest h => ?_⟩
  cases h

end Sys2Proof.Tests
end

section
/-! The nibbles of a byte as numbers, the two accessors of the grid on either side of its bounds, and which accesses an
instruction makes (20_memory.md R54 to R58). -/
namespace Sys2Proof.Machine

/-! ## Nibbles as numbers -/

/-- 20_memory.md R55, R56: `get`'s shift and mask, on byte values. -/
theorem toNat_nibbleOf (x : Nat) (b : Byte) :
    (nibbleOf x b).toNat = if x % 2 = 0 then b.toNat % 16 else b.toNat / 16 := by
  have high : b.toNat / 16 < 16 := by have := b.isLt; omega
  simp only [nibbleOf, lowHalf_eq, decide_eq_true_eq]
  split
  · simp
  · simpa [Nat.shiftRight_eq_div_pow] using Nat.mod_eq_of_lt high

/-- 20_memory.md R57: `set` replaces the chosen half of the byte and keeps the other. -/
theorem toNat_withNibble (x : Nat) (b : Byte) (v : Nibble) :
    (withNibble x b v).toNat =
      if x % 2 = 0 then b.toNat / 16 * 16 + v.toNat else v.toNat * 16 + b.toNat % 16 := by
  have join (h l : Nibble) : (h ++ l).toNat = h.toNat * 16 + l.toNat := by
    rw [BitVec.toNat_append, ← Nat.shiftLeft_add_eq_or_of_lt l.isLt, Nat.shiftLeft_eq]
  have high : b.toNat / 16 < 16 := by have := b.isLt; omega
  simp only [withNibble, lowHalf_eq, decide_eq_true_eq]
  split
  · simpa [join, Nat.shiftRight_eq_div_pow] using high
  · simp [join]

/-! ## The linear index of a cell -/

/-- 20_memory.md R54: the linear index of a cell of the grid counts one of its `N * N` cells. -/
theorem cellIndex_lt {x y : Nat} (h : InGrid x y) :
    x + y * Config.gridSide < Config.gridSide * Config.gridSide := by
  simp only [InGrid, Config.gridSide] at *
  omega

/-- 20_memory.md R55: `N` being even, the parity of a cell's linear index is that of its column. -/
theorem cellIndex_mod_two (x y : Nat) : (x + y * Config.gridSide) % 2 = x % 2 := by
  simp only [Config.gridSide]
  omega

/-! ## `get` and `set` on either side of the bounds -/

theorem gridGet_of_inGrid (g : Memory) {x y : Nat} (h : InGrid x y) : gridGet g x y = .ok (cellValue g x y) :=
  gridGet_eq_ok.2 ⟨h, rfl⟩

theorem gridSet_of_inGrid (g : Memory) {x y : Nat} (v : Nibble) (h : InGrid x y) :
    gridSet g x y v = .ok (setCellValue g x y v) :=
  gridSet_eq_ok.2 ⟨h, rfl⟩

theorem gridGet_of_not_inGrid (g : Memory) {x y : Nat} (h : ¬ InGrid x y) : gridGet g x y = .error .gridRange :=
  gridGet_eq_error.2 ⟨h, rfl⟩

theorem gridSet_of_not_inGrid (g : Memory) {x y : Nat} (v : Nibble) (h : ¬ InGrid x y) :
    gridSet g x y v = .error .gridRange := if_neg h

theorem not_inGrid_iff {x y : Nat} : ¬ InGrid x y ↔ Config.gridSide ≤ x ∨ Config.gridSide ≤ y := by
  simp only [InGrid]
  omega

/-- 20_memory.md R57, R58: `get` after `set`, at every pair of coordinates, on the grid or off it. -/
theorem gridGet_setCellValue {g : Memory} (hg : g.wf) {x y : Nat} (h : InGrid x y) (v : Nibble) (x' y' : Nat) :
    gridGet (setCellValue g x y v) x' y' = if x' = x ∧ y' = y then .ok v else gridGet g x' y' := by
  by_cases h' : InGrid x' y'
  · rw [gridGet_of_inGrid _ h', gridGet_of_inGrid _ h', cellValue_setCellValue hg h h', apply_ite Except.ok]
  · have hne : ¬ (x' = x ∧ y' = y) := by
      rintro ⟨rfl, rfl⟩
      exact h' h
    rw [gridGet_of_not_inGrid _ h', gridGet_of_not_inGrid _ h', if_neg hne]

/-! ## The register `fault` after an instruction -/

@[simp] theorem visitLoop_fault (top : Pc) (f : Frame) (s : State) : (visitLoop top f s).fault = s.fault := by
  rcases visitLoop_cases top f s with ⟨-, e⟩ | ⟨-, e⟩ <;> rw [e] <;> simp

theorem OpensFrom.fault_eq {s u : State} (h : OpensFrom s u) : u.fault = s.fault := by
  rcases h with rfl | rfl <;> rfl

/-- An instruction that newly records `F_GRID_RANGE` has reached past the grid: the robot's own cell or the cell ahead
of it is outside. -/
theorem Effect.offGrid_of_fault {s t : State} {i : Instr} (he : Effect s i t) (hs : s.fault ≠ some .gridRange)
    (ht : t.fault = some .gridRange) :
    ¬ InGrid s.px.toNat s.py.toNat ∨ ∃ x y, previewStep s = some (x, y) ∧ ¬ InGrid x.toNat y.toNat := by
  cases he with
  | offGrid _ _ hout => exact hout
  | notFlagcount | repeatZero => simp at ht
  | calls _ _ hu | opens _ _ _ _ _ hu => exact absurd (by simpa [hu.fault_eq] using ht) hs
  | ends | growthFails | moves | turns | takes | adds | jumps | fallsThrough | returns | visits =>
    exact absurd (by simpa using ht) hs

end Sys2Proof.Machine

namespace Sys2Proof.Safety
open Sys2Proof.Machine

/-- 20_memory.md R58: in a legal world the robot's cell and the cell ahead of it are on the grid. -/
theorem WorldLegal.accesses_inGrid {s : State} (h : WorldLegal s) :
    InGrid s.px.toNat s.py.toNat ∧ ∀ x y, previewStep s = some (x, y) → InGrid x.toNat y.toNat := by
  obtain ⟨-, hrobot⟩ := h
  exact ⟨hrobot, fun _ _ hp => previewStep_inGrid hrobot hp⟩

/-- 20_memory.md R58: no instruction executed in a legal world newly records `F_GRID_RANGE`. -/
theorem exec_fault_ne_gridRange {s t : State} {i : Instr} (hw : WorldLegal s) (hs : s.fault ≠ some .gridRange)
    (he : exec i s = .next t) : t.fault ≠ some .gridRange := by
  intro ht
  obtain ⟨hrobot, hahead⟩ := hw.accesses_inGrid
  rcases (exec_effect he).offGrid_of_fault hs ht with hn | ⟨x, y, hp, hn⟩
  · exact hn hrobot
  · exact hn (hahead x y hp)

end Sys2Proof.Safety
end

section
/-! The statements about the grid's accessors (20_memory.md). -/
namespace Sys2Proof.Proofs
open Sys2Proof.Machine Sys2Proof.Safety

/-- Settles O6: the nibble `get` reads, as a number, is the shift and mask of the byte at the cell's address. -/
theorem gridGetReadsTheCellNibble : Obligations.GridGetReadsTheCellNibble := by
  intro g x y hx hy
  have hin : InGrid x y := ⟨hx, hy⟩
  exact ⟨cellIndex_lt hin, cellAddress_lt hin, cellIndex_mod_two x y, cellValue g x y, gridGet_of_inGrid g hin,
    toNat_nibbleOf x (g.read (cellAddress x y))⟩

/-- Settles O7: `set` writes one byte, and reading it back at any cell sees the written nibble or the old one. -/
theorem gridSetWritesOneNibble : Obligations.GridSetWritesOneNibble := by
  intro g x y v hg hx hy
  have hin : InGrid x y := ⟨hx, hy⟩
  refine ⟨setCellValue g x y v, gridSet_of_inGrid g v hin, setCellValue_wf hg x y v, ?_,
    fun a ha => setCellValue_read_other g v ha, ?_, fun x' y' hne => ?_⟩
  · rw [setCellValue_read_same hg, toNat_withNibble]
  · rw [gridGet_setCellValue hg hin, if_pos ⟨rfl, rfl⟩]
  · rw [gridGet_setCellValue hg hin, if_neg hne]

/-- Settles O8: the accessors check the bounds, and the cells an instruction accesses in a legal world pass the check. -/
theorem gridAccessOutsideFaults : Obligations.GridAccessOutsideFaults := by
  refine ⟨fun g x y v hout => ?_, fun s t i hw hs he => exec_fault_ne_gridRange hw (by simp [hs]) he⟩
  have hn : ¬ InGrid x y := not_inGrid_iff.2 hout
  exact ⟨gridGet_of_not_inGrid g hn, gridSet_of_not_inGrid g v hn⟩

end Sys2Proof.Proofs
end

section
/-! The decoder one outcome at a time, on any bytes and at an offset of the image, with its fields and operands as
arithmetic on byte values (30_encoding.md R84 to R88, R98). -/
namespace Sys2Proof

/-! ## Fields and operands as numbers -/

/-- 30_encoding.md R88: the condition field read as a number. -/
theorem condOf_eq (c : BitVec 3) :
    condOf c =
      if c.toNat = 0 then .none else if c.toNat = 1 then .isWall else if c.toNat = 2 then .isFlag
      else if c.toNat = 3 then .isHome else if c.toNat = 4 then .isNorth else if c.toNat = 5 then .isWest
      else if c.toNat = 6 then .isSouth else .isEast := by
  revert c
  decide

/-- 30_encoding.md R87: the tag field read as a number. -/
theorem tagNumber_toNat_of_tagOf {head : Byte} {tag : Tag} (h : tagOf (headTag head) = some tag) :
    (Config.tagNumber tag).toNat = head.toNat % 16 := by
  rw [tagNumber_of_tagOf h, headTag_toNat]

/-- 30_encoding.md R80, R94: the length of an instruction, from the number of its tag. -/
theorem Tag.length_eq (t : Tag) :
    t.length =
      if (Config.tagNumber t).toNat = 4 ∨ (Config.tagNumber t).toNat = 5 then 5
      else if (Config.tagNumber t).toNat = 8 then 7 else 1 := by
  cases t <;> rfl

theorem tagNumber_eq_four_iff {t : Tag} : (Config.tagNumber t).toNat = 4 ↔ t = .branch := by
  cases t <;> decide

theorem tagNumber_lt_nine (t : Tag) : (Config.tagNumber t).toNat < 9 := by
  cases t <;> decide

/-- 30_encoding.md R90, R91: the check for a reserved field, on the numbers of the head byte's fields. -/
theorem reservedField_iff {head : Byte} {tag : Tag} (h : tagOf (headTag head) = some tag) :
    (tag ≠ .branch ∧ (headCond head ≠ 0 ∨ headInv head ≠ 0)) ↔
      head.toNat % 16 ≠ 4 ∧ (head.toNat / 16 % 8 ≠ 0 ∨ head.toNat / 128 ≠ 0) := by
  rw [BitVec.toNat_ne, BitVec.toNat_ne, headCond_toNat, headInv_toNat, ne_eq tag, ← tagNumber_eq_four_iff,
    tagNumber_toNat_of_tagOf h]
  rfl

theorem headInv_beq_one (head : Byte) : (headInv head == 1) = decide (head.toNat / 128 = 1) := by
  rw [← headInv_toNat]
  generalize headInv head = v
  revert v
  decide

/-- 30_encoding.md R85, as the word itself. -/
theorem joinTarget_eq_ofNat (b0 b1 b2 b3 : Byte) :
    joinTarget b0 b1 b2 b3 =
      BitVec.ofNat 32 (b0.toNat + 256 * b1.toNat + 65536 * b2.toNat + 16777216 * b3.toNat) := by
  rw [← joinTarget_toNat, BitVec.ofNat_toNat, BitVec.setWidth_eq]

/-- 30_encoding.md R86, as the count itself. -/
theorem joinCount_eq_ofNat (b0 b1 : Byte) : joinCount b0 b1 = BitVec.ofNat 16 (b0.toNat + 256 * b1.toNat) := by
  rw [← joinCount_toNat, BitVec.ofNat_toNat, BitVec.setWidth_eq]

/-! ## The outcomes of the decoder -/

section
variable {head : Byte} {rest : List Byte} {tag : Tag}

/-- 30_encoding.md R89. -/
theorem decode_illegalTag (ht : tagOf (headTag head) = none) : decode (head :: rest) = .error .illegalTag := by
  simp [decode, ht]

/-- 30_encoding.md R98: an opcode whose bytes are not all there. -/
theorem decode_truncated (ht : tagOf (headTag head) = some tag) (hl : rest.length + 1 < tag.length) :
    decode (head :: rest) = .error .fetchRange := by
  simp [decode, ht, hl]

/-- 30_encoding.md R90, R91. -/
theorem decode_reservedField (ht : tagOf (headTag head) = some tag) (hl : tag.length ≤ rest.length + 1)
    (hr : tag ≠ .branch ∧ (headCond head ≠ 0 ∨ headInv head ≠ 0)) :
    decode (head :: rest) = .error .reservedField := by
  simp only [decode, ht, if_neg (Nat.not_lt.2 hl), if_pos hr]

/-- 30_encoding.md R98, all its checks passed. -/
theorem decode_of_assemble {p : Instr × List Byte} (ht : tagOf (headTag head) = some tag)
    (hl : tag.length ≤ rest.length + 1) (hr : ¬(tag ≠ .branch ∧ (headCond head ≠ 0 ∨ headInv head ≠ 0)))
    (hp : assemble tag (condOf (headCond head)) (headInv head == 1) rest = some p) :
    decode (head :: rest) = .ok p := by
  simp only [decode, ht, if_neg (Nat.not_lt.2 hl), if_neg hr, hp]

end

/-- The term of an opcode, from every field and operand an encoding can hold (30_encoding.md R98, the last lines). -/
def Tag.term (cond : Cond) (inv : Bool) (target : Pc) (count : Count) : Tag → Instr
  | .step => .step
  | .left => .left
  | .pickUp => .pickUp
  | .place => .place
  | .branch => .branch cond inv target
  | .branchLinked => .branchLinked target
  | .retn => .retn
  | .stop => .stop
  | .repeatLoop => .repeatLoop target count

namespace Machine

/-! ## Decoding at an offset of the image -/

/-- The target or loop top of an instruction at an offset: `LE32(MemRead(IMG, fa+1, 4))` (30_encoding.md R98). -/
def targetAt (s : State) (a : Nat) : Pc :=
  joinTarget (s.image.read (a + 1)) (s.image.read (a + 2)) (s.image.read (a + 3)) (s.image.read (a + 4))

/-- The count of an instruction at an offset: `LE16(MemRead(IMG, fa+5, 2))` (30_encoding.md R98). -/
def countAt (s : State) (a : Nat) : Count :=
  joinCount (s.image.read (a + 5)) (s.image.read (a + 6))

section
variable {s : State} {a : Nat} {tag : Tag}

theorem fetchWindow_length (s : State) (a : Nat) :
    (fetchWindow s a).length = min maxLength (s.imageLen.toNat - a) := by
  simp [fetchWindow]

theorem fetchWindow_eq_nil (h : s.imageLen.toNat ≤ a) : fetchWindow s a = [] := by
  simp [fetchWindow, Nat.sub_eq_zero_of_le h]

/-- Inside the image the window is the head byte and the bytes after it. -/
theorem fetchWindow_eq_head_cons (h : a < s.imageLen.toNat) :
    fetchWindow s a = s.image.read a :: (fetchWindow s a).tail := by
  rw [fetchWindow_cons h, List.tail_cons]

/-- The window begins with as many bytes as fit in the image. -/
theorem fetchWindow_eq_append {n : Nat} (hn : n ≤ maxLength) (h : a + n ≤ s.imageLen.toNat) :
    ∃ rest, fetchWindow s a = ((List.range n).map fun k => s.image.read (a + k)) ++ rest := by
  obtain ⟨m, hm⟩ : ∃ m, min maxLength (s.imageLen.toNat - a) = n + m :=
    ⟨min maxLength (s.imageLen.toNat - a) - n, by omega⟩
  unfold fetchWindow
  rw [hm, List.range_add, List.map_append]
  exact ⟨_, rfl⟩

/-- The bytes after the head are enough for an opcode exactly when its instruction fits in the image. -/
theorem tag_length_le_window_iff (h : a < s.imageLen.toNat) (tag : Tag) :
    tag.length ≤ (fetchWindow s a).tail.length + 1 ↔ a + tag.length ≤ s.imageLen.toNat := by
  have hmax : tag.length ≤ 7 := by cases tag <;> decide
  rw [List.length_tail, fetchWindow_length, maxLength]
  omega

/-- An opcode whose instruction fits in the image is given the operands that stand there. -/
theorem assemble_window (cond : Cond) (inv : Bool) (h : a + tag.length ≤ s.imageLen.toNat) :
    ∃ rest, assemble tag cond inv (fetchWindow s a).tail =
      some (tag.term cond inv (targetAt s a) (countAt s a), rest) := by
  cases tag with
  | step | left | pickUp | place | retn | stop => exact ⟨_, rfl⟩
  | branch | branchLinked =>
    obtain ⟨rest, hw⟩ := fetchWindow_eq_append (n := 5) (by decide) h
    rw [hw]
    exact ⟨rest, rfl⟩
  | repeatLoop =>
    obtain ⟨rest, hw⟩ := fetchWindow_eq_append (n := 7) (by decide) h
    rw [hw]
    exact ⟨rest, rfl⟩

/-- 40_fetch_dispatch.md R103. -/
theorem decodeAt_pastEnd (h : s.imageLen.toNat ≤ a) : decodeAt s a = .error .fetchRange := by
  rw [decodeAt, fetchWindow_eq_nil h]
  rfl

theorem decodeAt_illegalTag (h : a < s.imageLen.toNat) (ht : tagOf (headTag (s.image.read a)) = none) :
    decodeAt s a = .error .illegalTag := by
  rw [decodeAt, fetchWindow_eq_head_cons h, decode_illegalTag ht]
  rfl

/-- 40_fetch_dispatch.md R104. -/
theorem decodeAt_truncated (h : a < s.imageLen.toNat) (ht : tagOf (headTag (s.image.read a)) = some tag)
    (hl : s.imageLen.toNat < a + tag.length) : decodeAt s a = .error .fetchRange := by
  have hw : (fetchWindow s a).tail.length + 1 < tag.length := by
    have := tag_length_le_window_iff h tag
    omega
  rw [decodeAt, fetchWindow_eq_head_cons h, decode_truncated ht hw]
  rfl

theorem decodeAt_reservedField (h : a < s.imageLen.toNat) (ht : tagOf (headTag (s.image.read a)) = some tag)
    (hl : a + tag.length ≤ s.imageLen.toNat)
    (hr : tag ≠ .branch ∧ (headCond (s.image.read a) ≠ 0 ∨ headInv (s.image.read a) ≠ 0)) :
    decodeAt s a = .error .reservedField := by
  rw [decodeAt, fetchWindow_eq_head_cons h, decode_reservedField ht ((tag_length_le_window_iff h tag).2 hl) hr]
  rfl

/-- 30_encoding.md R98, all its checks passed: the term the tag names, with the fields and operands that stand there. -/
theorem decodeAt_eq_term (h : a < s.imageLen.toNat) (ht : tagOf (headTag (s.image.read a)) = some tag)
    (hl : a + tag.length ≤ s.imageLen.toNat)
    (hr : ¬(tag ≠ .branch ∧ (headCond (s.image.read a) ≠ 0 ∨ headInv (s.image.read a) ≠ 0))) :
    decodeAt s a = .ok (tag.term (condOf (headCond (s.image.read a))) (headInv (s.image.read a) == 1)
      (targetAt s a) (countAt s a)) := by
  obtain ⟨rest, hp⟩ := assemble_window (condOf (headCond (s.image.read a))) (headInv (s.image.read a) == 1) hl
  rw [decodeAt, fetchWindow_eq_head_cons h,
    decode_of_assemble ht ((tag_length_le_window_iff h tag).2 hl) hr hp]

end

end Machine

end Sys2Proof
end

section
/-! The statement about the decoder at an offset of the image (30_encoding.md R98). -/
namespace Sys2Proof.Proofs
open Sys2Proof.Machine

/-- Settles O3: the checks are taken in the rule's order, each with the decoder's outcome for it; past them the tag has
a name, and the fields and operands of the term it names are the rule's sums. -/
theorem decoderFollowsTheRule : Obligations.DecoderFollowsTheRule := by
  intro s fa len b tag cond inv size word count
  by_cases hend : len ≤ fa
  · rw [if_pos hend, decodeAt_pastEnd hend]
  have hin : fa < s.imageLen.toNat := Nat.not_le.1 hend
  rw [if_neg hend]
  cases ht : tagOf (headTag (s.image.read fa)) with
  | none =>
    have htag : 9 ≤ tag := (tagOf_eq_none.1 ht).trans_eq (headTag_toNat _)
    rw [if_pos htag, decodeAt_illegalTag hin ht]
  | some t =>
    have htag : tag = (Config.tagNumber t).toNat := (tagNumber_toNat_of_tagOf ht).symm
    have hsize : size = t.length := by rw [Tag.length_eq, ← htag]
    have hlegal : ¬ 9 ≤ tag := by rw [htag]; exact Nat.not_le.2 (tagNumber_lt_nine t)
    rw [if_neg hlegal, hsize]
    by_cases hfit : len < fa + t.length
    · rw [if_pos hfit, decodeAt_truncated hin ht hfit]
    have hl : fa + t.length ≤ s.imageLen.toNat := Nat.not_lt.1 hfit
    rw [if_neg hfit]
    by_cases hr : tag ≠ 4 ∧ (cond ≠ 0 ∨ inv ≠ 0)
    · rw [if_pos hr, decodeAt_reservedField hin ht hl ((reservedField_iff ht).2 hr)]
    have hword : targetAt s fa = word := joinTarget_eq_ofNat ..
    have hcount : countAt s fa = count := joinCount_eq_ofNat ..
    rw [if_neg hr, decodeAt_eq_term hin ht hl (mt (reservedField_iff ht).1 hr), hword, hcount, condOf_eq,
      headCond_toNat, headInv_beq_one, htag]
    cases t <;> rfl

end Sys2Proof.Proofs
end

section
/-! The interpreter's turn one outcome at a time, and the opcode a legal tag names (40_fetch_dispatch.md R101, R103 to
R106). -/
namespace Sys2Proof

/-- 30_encoding.md R80, R87, R89: a tag below 9 names an opcode, whose length is the one its number gives. -/
theorem exists_tagOf_of_lt_nine {head : Byte} (h : head.toNat % 16 < 9) :
    ∃ tag, tagOf (headTag head) = some tag ∧
      tag.length =
        if head.toNat % 16 = 4 ∨ head.toNat % 16 = 5 then 5 else if head.toNat % 16 = 8 then 7 else 1 := by
  have hsome : tagOf (headTag head) ≠ none := by
    rw [ne_eq, tagOf_eq_none, headTag_toNat]
    exact Nat.not_le.2 h
  obtain ⟨tag, ht⟩ := Option.ne_none_iff_exists'.1 hsome
  exact ⟨tag, ht, by rw [Tag.length_eq, tagNumber_toNat_of_tagOf ht]⟩

theorem Tag.length_pos (t : Tag) : 0 < t.length := by
  cases t <;> decide

namespace Machine

section
variable {s : State} (hb : s.busy = true) (hf : s.fault = none)
include hb hf

/-- 40_fetch_dispatch.md R101: the interpreter's turn in a run without a fault. -/
theorem interpreterTurn_eq_runInstruction : interpreterTurn s = runInstruction s := by
  simp [interpreterTurn, hb, hf]

/-- 40_fetch_dispatch.md R105: a fetch that decodes to nothing records its fault. -/
theorem interpreterTurn_of_decodeAt_error {c : Cause} (hd : decodeAt s (fetchAddress s).toNat = .error c) :
    interpreterTurn s = .next (raiseFault c s) := by
  rw [interpreterTurn_eq_runInstruction hb hf, runInstruction, hd]

/-- 40_fetch_dispatch.md R106: a fetch that decodes to an instruction executes it. -/
theorem interpreterTurn_of_decodeAt_ok {i : Instr} (hd : decodeAt s (fetchAddress s).toNat = .ok i) :
    interpreterTurn s = exec i s := by
  rw [interpreterTurn_eq_runInstruction hb hf, runInstruction, hd]

/-- 40_fetch_dispatch.md R101: in a run without a fault the interpreter's turn has a next state. -/
theorem interpreterTurn_answers_next : ∃ t, interpreterTurn s = .next t := by
  cases hd : decodeAt s (fetchAddress s).toNat with
  | error c => exact ⟨_, interpreterTurn_of_decodeAt_error hb hf hd⟩
  | ok i =>
    rw [interpreterTurn_of_decodeAt_ok hb hf hd]
    exact exec_answers_next i s

end

end Machine

end Sys2Proof
end

section
/-! The statements about the fetch and the interpreter's turn (40_fetch_dispatch.md). -/
namespace Sys2Proof.Proofs
open Sys2Proof.Machine

/-- Settles O26: each clause is the decoder's outcome of that name at the fetch address; below 9 the tag names an opcode
of the stated size, and a head byte from 16 has a condition or an invert bit. -/
theorem fetchFaultsAreRecorded : Obligations.FetchFaultsAreRecorded := by
  intro s hb hf fa head size
  have records {c : Cause} (hd : decodeAt s fa = .error c) : interpreterTurn s = .next { s with fault := some c } :=
    interpreterTurn_of_decodeAt_error hb hf hd
  refine ⟨fun hend => ?_, fun hin htag => ?_, fun hin htag hshort => ?_, fun htag hfit hbranch hhead => ?_⟩
  · exact records (decodeAt_pastEnd hend)
  · have ht : tagOf (headTag (s.image.read fa)) = none := tagOf_eq_none.2 (htag.trans_eq (headTag_toNat _).symm)
    exact records (decodeAt_illegalTag hin ht)
  · obtain ⟨tag, ht, hsize⟩ := exists_tagOf_of_lt_nine htag
    have hl : s.imageLen.toNat < fa + tag.length := by rwa [hsize]
    exact records (decodeAt_truncated hin ht hl)
  · obtain ⟨tag, ht, hsize⟩ := exists_tagOf_of_lt_nine htag
    have hl : fa + tag.length ≤ s.imageLen.toNat := by rwa [hsize]
    have hin : fa < s.imageLen.toNat := (Nat.lt_add_of_pos_right tag.length_pos).trans_le hl
    have hfields : head / 16 % 8 ≠ 0 ∨ head / 128 ≠ 0 := by omega
    exact records (decodeAt_reservedField hin ht hl ((reservedField_iff ht).2 ⟨hbranch, hfields⟩))

/-- Settles O27: a turn with a next state is one of a run without a fault, and in such a run the fetch either records a
fault or executes an instruction, which always completes. -/
theorem interpreterStepsExactlyInARun : Obligations.InterpreterStepsExactlyInARun := by
  intro s
  constructor
  · rintro ⟨t, ht⟩
    obtain ⟨hf, hb, -⟩ := interpreterTurn_next ht
    exact ⟨hb, hf⟩
  · rintro ⟨hb, hf⟩
    exact interpreterTurn_answers_next hb hf

end Sys2Proof.Proofs
end

section
/-! The robot primitives one outcome at a time: the cell ahead for each facing, the turn, and what STEP, PICK_UP and
PLACE answer for each value of the cell they read (41_robot_primitives.md R120 to R127). -/
namespace Sys2Proof.Machine

/-! ## The cell ahead -/

theorem facing_cases (d : BitVec 2) : d = 0 ∨ d = 1 ∨ d = 2 ∨ d = 3 := by
  revert d
  decide

/-- A coordinate short of the last row or column: the next one is a word. -/
theorem word_add_one_of_lt_gridSide {w : Word} (h : w.toNat + 1 < Config.gridSide) :
    (w + 1).toNat = w.toNat + 1 :=
  word_add_one (h.trans (by decide))

theorem word_sub_one_of_toNat_ne_zero {w : Word} (h : w.toNat ≠ 0) : (w - 1).toNat + 1 = w.toNat :=
  word_sub_one fun e => h (congrArg BitVec.toNat e)

section
variable {s : State}

/-- 41_robot_primitives.md R120, facing North. -/
theorem previewStep_north (hd : s.d = 0) :
    previewStep s = if Config.gridSide ≤ s.py.toNat + 1 then none else some (s.px, s.py + 1) := by
  simp [previewStep, hd]

/-- 41_robot_primitives.md R120, facing West. -/
theorem previewStep_west (hd : s.d = 1) :
    previewStep s = if s.px.toNat = 0 then none else some (s.px - 1, s.py) := by
  simp [previewStep, hd, BitVec.toNat_eq]

/-- 41_robot_primitives.md R120, facing South. -/
theorem previewStep_south (hd : s.d = 2) :
    previewStep s = if s.py.toNat = 0 then none else some (s.px, s.py - 1) := by
  simp [previewStep, hd, BitVec.toNat_eq]

/-- 41_robot_primitives.md R120, facing East. -/
theorem previewStep_east (hd : s.d = 3) :
    previewStep s = if Config.gridSide ≤ s.px.toNat + 1 then none else some (s.px + 1, s.py) := by
  simp [previewStep, hd]

/-- 41_robot_primitives.md R120: there is no cell ahead exactly at the edge faced, or past it. -/
theorem previewStep_eq_none_iff :
    previewStep s = none ↔
      (s.d = 0 ∧ Config.gridSide ≤ s.py.toNat + 1) ∨ (s.d = 1 ∧ s.px.toNat = 0) ∨
      (s.d = 2 ∧ s.py.toNat = 0) ∨ (s.d = 3 ∧ Config.gridSide ≤ s.px.toNat + 1) := by
  rcases facing_cases s.d with hd | hd | hd | hd
  · simp [previewStep_north hd, hd]
  · simp [previewStep_west hd, hd]
  · simp [previewStep_south hd, hd]
  · simp [previewStep_east hd, hd]

/-- 41_robot_primitives.md R120: the cell ahead shares a side with the robot's. -/
theorem previewStep_adjacent {x y : Word} (h : previewStep s = some (x, y)) :
    (x = s.px ∧ (y.toNat = s.py.toNat + 1 ∨ y.toNat + 1 = s.py.toNat)) ∨
    (y = s.py ∧ (x.toNat = s.px.toNat + 1 ∨ x.toNat + 1 = s.px.toNat)) := by
  rcases previewStep_cases h with ⟨-, hn, rfl, rfl⟩ | ⟨-, hw, rfl, rfl⟩ | ⟨-, hs, rfl, rfl⟩ | ⟨-, he, rfl, rfl⟩
  · exact .inl ⟨rfl, .inl (word_add_one_of_lt_gridSide hn)⟩
  · exact .inr ⟨rfl, .inr (word_sub_one hw)⟩
  · exact .inl ⟨rfl, .inr (word_sub_one hs)⟩
  · exact .inr ⟨rfl, .inl (word_add_one_of_lt_gridSide he)⟩

end

/-! ## The turn -/

/-- 41_robot_primitives.md R121: two bits add modulo 4. -/
theorem facing_add_one (d : BitVec 2) : (d + 1).toNat = (d.toNat + 1) % 4 := BitVec.toNat_add d 1

theorem facing_add_four (d : BitVec 2) : d + 1 + 1 + 1 + 1 = d := by
  revert d
  decide

/-! ## STEP -/

section
variable {s : State}

/-- 41_robot_primitives.md R122: the edge ends the run. -/
theorem exec_step_of_edge (hp : previewStep s = none) : exec .step s = .next (terminate .stepOutOfBounds s) := by
  simp only [exec, execStep, hp]

variable {x y : Word} {v : Nibble} (hp : previewStep s = some (x, y))
  (hv : gridGet s.grid x.toNat y.toNat = .ok v)
include hp hv

/-- 41_robot_primitives.md R122: a wall ends the run. -/
theorem exec_step_of_wall (hw : v = Config.wall) : exec .step s = .next (terminate .stepOutOfBounds s) := by
  simp only [exec, execStep, cellAt, hp, hv, if_pos hw]

/-- 41_robot_primitives.md R122: the robot moves to a cell that is no wall. -/
theorem exec_step_of_free (hw : v ≠ Config.wall) : exec .step s = .next (advance 1 (moveRobot x y s)) := by
  simp only [exec, execStep, cellAt, hp, hv, if_neg hw]

end

/-! ## PICK_UP and PLACE -/

/-- `get` at the cell `set` has written. -/
theorem gridGet_setCellValue_same {g : Memory} (hg : g.wf) {x y : Nat} (h : InGrid x y) (v : Nibble) :
    gridGet (setCellValue g x y v) x y = .ok v := by
  rw [gridGet_setCellValue hg h, if_pos ⟨rfl, rfl⟩]

/-- `get` at any pair of coordinates but those of the cell `set` has written. -/
theorem gridGet_setCellValue_other {g : Memory} (hg : g.wf) {x y : Nat} (h : InGrid x y) (v : Nibble) {x' y' : Nat}
    (hne : ¬ (x' = x ∧ y' = y)) : gridGet (setCellValue g x y v) x' y' = gridGet g x' y' := by
  rw [gridGet_setCellValue hg h, if_neg hne]

section
variable {s : State}

theorem writeHere_of_inGrid (hin : InGrid s.px.toNat s.py.toNat) (v : Nibble) :
    writeHere v s = advance 1 (withGrid (setCellValue s.grid s.px.toNat s.py.toNat v) s) := by
  rcases writeHere_cases v s with ⟨-, e⟩ | ⟨hn, -⟩
  · exact e
  · exact absurd hin hn

variable {h : Nibble} (hh : gridGet s.grid s.px.toNat s.py.toNat = .ok h)
include hh

/-- 41_robot_primitives.md R124: an empty cell ends the run. -/
theorem exec_pickUp_of_empty (h0 : h = 0) : exec .pickUp s = .next (terminate .pickupZeroFlags s) := by
  simp only [exec, execPickUp, here, cellAt, hh, if_pos h0]

/-- 41_robot_primitives.md R124: a cell that holds no flag count faults. -/
theorem exec_pickUp_of_notFlagcount (hm : Config.maxFlags < h.toNat) :
    exec .pickUp s = .next (raiseFault .cellNotFlagcount s) := by
  have h0 : h ≠ 0 := by
    rintro rfl
    exact absurd hm (by decide)
  simp only [exec, execPickUp, here, cellAt, hh, if_neg h0, gt_iff_lt, if_pos hm]

/-- 41_robot_primitives.md R124: a flag is taken. -/
theorem exec_pickUp_of_flag (h0 : h ≠ 0) (hm : h.toNat ≤ Config.maxFlags) :
    exec .pickUp s = .next (advance 1 (withGrid (setCellValue s.grid s.px.toNat s.py.toNat (h - 1)) s)) := by
  rw [← writeHere_of_inGrid (gridGet_eq_ok.1 hh).1]
  simp only [exec, execPickUp, here, cellAt, hh, if_neg h0, gt_iff_lt, if_neg (Nat.not_lt.2 hm)]

/-- 41_robot_primitives.md R125: a full cell ends the run. -/
theorem exec_place_of_full (hm : h.toNat = Config.maxFlags) :
    exec .place s = .next (terminate .placeMaxFlags s) := by
  simp only [exec, execPlace, here, cellAt, hh, if_pos hm]

/-- 41_robot_primitives.md R125: a cell that holds no flag count faults. -/
theorem exec_place_of_notFlagcount (hm : Config.maxFlags < h.toNat) :
    exec .place s = .next (raiseFault .cellNotFlagcount s) := by
  simp only [exec, execPlace, here, cellAt, hh, if_neg hm.ne', gt_iff_lt, if_pos hm]

/-- 41_robot_primitives.md R125: a flag is added. -/
theorem exec_place_of_room (hm : h.toNat < Config.maxFlags) :
    exec .place s = .next (advance 1 (withGrid (setCellValue s.grid s.px.toNat s.py.toNat (h + 1)) s)) := by
  rw [← writeHere_of_inGrid (gridGet_eq_ok.1 hh).1]
  simp only [exec, execPlace, here, cellAt, hh, if_neg hm.ne, gt_iff_lt, if_neg hm.not_gt]

end

end Sys2Proof.Machine
end

section
/-! The statements about the robot primitives (41_robot_primitives.md). -/
namespace Sys2Proof.Proofs
open Sys2Proof.Machine

/-- Settles O10: the row of each facing, its bound decided; on the grid the bound is met on the boundary only. -/
theorem previewStepTable : Obligations.PreviewStepTable := by
  intro s
  refine ⟨fun hd h => ?_, fun hd h => ?_, fun hd h => ?_, fun hd h => ?_, fun hd h => ?_, fun hd h => ?_,
    fun hd h => ?_, fun hd h => ?_, fun hx hy => ?_⟩
  · rw [previewStep_north hd, if_pos h]
  · exact ⟨_, by rw [previewStep_north hd, if_neg (Nat.not_le.2 h)], word_add_one_of_lt_gridSide h⟩
  · rw [previewStep_west hd, if_pos h]
  · exact ⟨_, by rw [previewStep_west hd, if_neg h], word_sub_one_of_toNat_ne_zero h⟩
  · rw [previewStep_south hd, if_pos h]
  · exact ⟨_, by rw [previewStep_south hd, if_neg h], word_sub_one_of_toNat_ne_zero h⟩
  · rw [previewStep_east hd, if_pos h]
  · exact ⟨_, by rw [previewStep_east hd, if_neg (Nat.not_le.2 h)], word_add_one_of_lt_gridSide h⟩
  · have hlast {n : Nat} (hn : n < Config.gridSide) : Config.gridSide ≤ n + 1 ↔ n = Config.gridSide - 1 := by omega
    rw [previewStep_eq_none_iff, hlast hx, hlast hy]

/-- Settles O13: the three outcomes by the value of the robot's cell; the grid of the third is the one `set` leaves. -/
theorem pickUpTakesOneFlag : Obligations.PickUpTakesOneFlag := by
  refine ⟨rfl, fun s h hh => ⟨fun h0 => ?_, fun hm => ?_, fun h0 hm hg => ?_⟩⟩
  · exact exec_pickUp_of_empty hh (BitVec.eq_of_toNat_eq h0)
  · exact exec_pickUp_of_notFlagcount hh hm
  · have hin : InGrid s.px.toNat s.py.toNat := (gridGet_eq_ok.1 hh).1
    have hne : h ≠ 0 := fun e => h0.ne' (congrArg BitVec.toNat e)
    exact ⟨_, h - 1, exec_pickUp_of_flag hh hne hm, setCellValue_wf hg .., gridGet_setCellValue_same hg hin _,
      nibble_sub_one hne, fun _ ha => setCellValue_read_other _ _ ha,
      fun _ _ hxy => gridGet_setCellValue_other hg hin _ hxy⟩

/-- Settles O14: the three outcomes by the value of the robot's cell; the grid of the third is the one `set` leaves. -/
theorem placeAddsOneFlag : Obligations.PlaceAddsOneFlag := by
  refine ⟨rfl, fun s h hh => ⟨fun hm => ?_, fun hm => ?_, fun hm hg => ?_⟩⟩
  · exact exec_place_of_full hh hm
  · exact exec_place_of_notFlagcount hh hm
  · have hin : InGrid s.px.toNat s.py.toNat := (gridGet_eq_ok.1 hh).1
    exact ⟨_, h + 1, exec_place_of_room hh hm, setCellValue_wf hg .., gridGet_setCellValue_same hg hin _,
      nibble_add_one hm, fun _ ha => setCellValue_read_other _ _ ha,
      fun _ _ hxy => gridGet_setCellValue_other hg hin _ hxy⟩

/-- Settles O15: of a primitive's effects only the end of the run clears `busy`. -/
theorem failingPrimitiveIsNotApplied : Obligations.FailingPrimitiveIsNotApplied := by
  intro s t i hi hb he ht
  cases exec_effect he with
  | ends => rfl
  | notFlagcount | offGrid | moves | takes | adds => simp [hb] at ht
  | growthFails _ hopen => rcases hopen with ⟨_, rfl⟩ | ⟨_, _, rfl⟩ <;> simp at hi
  | repeatZero | turns | jumps | fallsThrough | calls | returns | visits | opens => simp at hi

/-- Settles O11: STEP's outcomes by the cell ahead, and the adjacency of that cell. -/
theorem stepMovesOrEndsTheRun : Obligations.StepMovesOrEndsTheRun :=
  ⟨rfl, fun _ => ⟨exec_step_of_edge, fun _ _ hp hv => exec_step_of_wall hp hv rfl,
    fun _ _ _ => exec_step_of_free, fun _ _ => previewStep_adjacent⟩⟩

/-- Settles O12: the facing is a two-bit number, so its sums are modulo 4. -/
theorem leftTurnsCounterClockwise : Obligations.LeftTurnsCounterClockwise := by
  refine ⟨rfl, fun s => ⟨s.d + 1, facing_add_one s.d, rfl, rfl⟩, fun s => ?_⟩
  calc turnLeft (turnLeft (turnLeft (turnLeft s))) = { s with d := s.d + 1 + 1 + 1 + 1 } := rfl
    _ = s := by rw [facing_add_four]

end Sys2Proof.Proofs
end

section
/-! The operands and the head byte an encoding writes, as arithmetic on byte values (30_encoding.md R84, R85). -/
namespace Sys2Proof

/-- 30_encoding.md R82, R85: the four bytes written for a target, least significant first. -/
theorem exists_targetBytes (w : Pc) :
    ∃ b0 b1 b2 b3 : Byte, targetBytes w = [b0, b1, b2, b3] ∧
      w.toNat = b0.toNat + 256 * b1.toNat + 65536 * b2.toNat + 16777216 * b3.toNat := by
  refine ⟨_, _, _, _, targetBytes_eq w, ?_⟩
  have hw : w.toNat < 2 ^ 32 := w.isLt
  simp only [BitVec.extractLsb'_toNat, Nat.shiftRight_eq_div_pow]
  omega

/-- 30_encoding.md R84: the head byte is the sum of its fields, each at its weight. -/
theorem encodeHead_toNat (tag : Tag) (cond : Cond) (inv : Bool) :
    (encodeHead tag cond inv).toNat =
      (Config.tagNumber tag).toNat + 16 * (Config.condNumber cond).toNat + 128 * inv.toNat := by
  have htag := headTag_toNat (encodeHead tag cond inv)
  have hcond := headCond_toNat (encodeHead tag cond inv)
  have hinv := headInv_toNat (encodeHead tag cond inv)
  rw [headTag_encodeHead] at htag
  rw [headCond_encodeHead] at hcond
  rw [headInv_encodeHead, BitVec.toNat_ofBool] at hinv
  omega

end Sys2Proof
end

section
/-! The conditions, and the control transfers one outcome at a time (42_control_transfer.md R140 to R151). -/
namespace Sys2Proof.Machine

/-! ## Conditions -/

/-- A comparison of words, as one of numbers. -/
theorem beq_eq_decide_toNat {n : Nat} (x y : BitVec n) : (x == y) = decide (x.toNat = y.toNat) := by
  rw [beq_eq_decide, decide_eq_decide, BitVec.toNat_eq]

section
variable {s : State}

/-- 42_control_transfer.md R142: the edge of the grid counts as a wall. -/
theorem wallAhead_of_edge (hp : previewStep s = none) : wallAhead s = .ok true := by
  simp only [wallAhead, hp]

/-- 42_control_transfer.md R142: the cell ahead is the wall marker, or not. -/
theorem wallAhead_of_cell {x y : Word} {v : Nibble} (hp : previewStep s = some (x, y))
    (hv : gridGet s.grid x.toNat y.toNat = .ok v) : wallAhead s = .ok (decide (v.toNat = 15)) := by
  have hwall : (v == Config.wall) = decide (v.toNat = 15) := beq_eq_decide_toNat v Config.wall
  simp only [wallAhead, cellAt, hp, hv, hwall]

/-- 42_control_transfer.md R140: IS_FLAG on the value of the robot's cell. -/
theorem flagHere_of_cell {h : Nibble} (hh : gridGet s.grid s.px.toNat s.py.toNat = .ok h) :
    flagHere s = .ok (decide (h.toNat ≠ 0 ∧ h.toNat ≠ 15)) := by
  have hzero : (h == 0) = decide (h.toNat = 0) := beq_eq_decide_toNat h 0
  have hwall : (h == Config.wall) = decide (h.toNat = 15) := beq_eq_decide_toNat h Config.wall
  simp only [flagHere, here, cellAt, hh, bne, hzero, hwall, Bool.decide_and, decide_not, ne_eq]

variable {cond : Cond} {inv raw : Bool}

/-- 42_control_transfer.md R141: `raw XOR invert`. -/
theorem condTrue_of_rawCond (h : rawCond cond s = .ok raw) : condTrue cond inv s = .ok (raw ^^ inv) := by
  simp only [condTrue, h]

/-- A condition whose form that is not inverted has a value has that value. -/
theorem rawCond_of_condTrue_false (h : condTrue cond false s = .ok raw) : rawCond cond s = .ok raw := by
  unfold condTrue at h
  cases hr : rawCond cond s with
  | error c => simp [hr] at h
  | ok b => simpa [hr] using h

/-! ## BRANCH -/

/-- 42_control_transfer.md R143: a jump when the value differs from the invert bit, a fall-through when it does not. -/
theorem exec_branch_of_rawCond (target : Pc) (h : rawCond cond s = .ok raw) :
    exec (.branch cond inv target) s = .next { s with pc := if raw = inv then s.pc + 5 else target } := by
  have hc : condTrue cond inv s = .ok (raw ^^ inv) := condTrue_of_rawCond h
  by_cases hri : raw = inv
  · have hfalse : (raw ^^ inv) = false := by simp [hri]
    simp only [exec, execBranch, hc, hfalse, if_pos hri]
    rfl
  · have htrue : (raw ^^ inv) = true := by simpa using hri
    simp only [exec, execBranch, hc, htrue, if_neg hri]
    rfl

/-! ## Frames -/

/-- 42_control_transfer.md R145: an opening below `FAST_DEPTH` cannot fail. -/
theorem openFrame_of_depth_lt (andThen : State → State) (h : s.depth < Config.fastDepth) :
    openFrame andThen s = andThen s := if_pos h

/-- 42_control_transfer.md R145: what follows an opening runs in the state itself or with one draw spent. -/
theorem openFrame_congr {f g : State → State} (hs : f s = g s) (hd : f (spendDraw s) = g (spendDraw s)) :
    openFrame f s = openFrame g s := by
  simp only [openFrame, hs, hd]

/-! ## RETN -/

/-- 42_control_transfer.md R149: with no call open the run ends. -/
theorem exec_retn_of_nil (h : s.callStack = []) : exec .retn s = .next (terminate .success s) := by
  simp only [exec, execRetn, h]

/-- 42_control_transfer.md R149: the newest return offset is popped. -/
theorem exec_retn_of_cons {ret : Pc} {rest : List Pc} (h : s.callStack = ret :: rest) :
    exec .retn s = .next { s with pc := ret, callStack := rest, depth := s.depth - 1 } := by
  simp only [exec, execRetn, jump, popCall, h, List.tail_cons]

end

end Sys2Proof.Machine

namespace Sys2Proof.Safety
open Sys2Proof.Machine

/-- 42_control_transfer.md R140: a condition reads no cell but the robot's and the one ahead, so in a legal world it
has a value. -/
theorem WorldLegal.exists_rawCond {s : State} (h : WorldLegal s) (cond : Cond) : ∃ raw, rawCond cond s = .ok raw := by
  obtain ⟨hrobot, hahead⟩ := h.accesses_inGrid
  rcases condTrue_cases cond false s with ⟨raw, hc⟩ | ⟨-, hn | ⟨x, y, hp, hn⟩⟩
  · exact ⟨raw, rawCond_of_condTrue_false hc⟩
  · exact absurd hrobot hn
  · exact absurd (hahead x y hp) hn

/-- 10_state.md R25: a legal cell that is neither empty nor a wall holds 1 to `MAX_FLAGS` flags. -/
theorem cellLegal.flags_iff {v : Nibble} (h : cellLegal v) :
    v.toNat ≠ 0 ∧ v.toNat ≠ 15 ↔ 1 ≤ v.toNat ∧ v.toNat ≤ Config.maxFlags := by
  simp only [Config.maxFlags]
  rcases h with h | rfl
  · simp only [Config.maxFlags] at h
    omega
  · decide

/-- 42_control_transfer.md R140: in a legal world IS_FLAG is true exactly on a cell with at least one flag. -/
theorem WorldLegal.isFlag_iff {s : State} (hw : WorldLegal s) {h : Nibble}
    (hh : gridGet s.grid s.px.toNat s.py.toNat = .ok h) :
    rawCond .isFlag s = .ok true ↔ 1 ≤ h.toNat ∧ h.toNat ≤ Config.maxFlags := by
  obtain ⟨hcells, -⟩ := hw
  obtain ⟨hin, rfl⟩ := gridGet_eq_ok.1 hh
  rw [rawCond, flagHere_of_cell hh, Except.ok.injEq, decide_eq_true_iff]
  exact (hcells _ _ hin).flags_iff

end Sys2Proof.Safety
end

section
/-! The statements about conditions and control transfer (42_control_transfer.md). -/
namespace Sys2Proof.Proofs
open Sys2Proof.Machine Sys2Proof.Safety

/-- Settles O16: the rows that read the grid by the cell they read, the others as comparisons of numbers. -/
theorem rawConditionTable : Obligations.RawConditionTable := by
  intro s
  refine ⟨rfl, wallAhead_of_edge, fun _ _ _ => wallAhead_of_cell, fun _ => flagHere_of_cell, ?_, ?_, ?_, ?_, ?_,
    fun hw => ⟨hw.exists_rawCond, fun _ => hw.isFlag_iff⟩⟩
  · simp only [rawCond, beq_eq_decide, Bool.decide_and]
  all_goals exact congrArg Except.ok (beq_eq_decide_toNat s.d _)

/-- Settles O18: the value of the condition against the invert bit; NONE has the value true in every state. -/
theorem branchJumpsOrFallsThrough : Obligations.BranchJumpsOrFallsThrough := by
  refine ⟨fun cond inv target => ?_, fun s cond inv target raw => exec_branch_of_rawCond target,
    fun s cond inv target hw => ?_, fun s target => ?_⟩
  · obtain ⟨b0, b1, b2, b3, hbytes, htarget⟩ := exists_targetBytes target
    exact ⟨_, b0, b1, b2, b3, congrArg _ hbytes, encodeHead_toNat .branch cond inv, htarget⟩
  · obtain ⟨raw, hraw⟩ := hw.exists_rawCond cond
    exact ⟨raw, hraw, exec_branch_of_rawCond target hraw⟩
  · have hnone : rawCond .none s = .ok true := rfl
    exact ⟨exec_branch_of_rawCond target hnone, exec_branch_of_rawCond target hnone⟩

/-- Settles O20: an opening touches none of the fields the call reads, and below `FAST_DEPTH` it cannot fail. -/
theorem branchLinkedPushesTheReturnOffset : Obligations.BranchLinkedPushesTheReturnOffset := by
  intro s target called
  have hexec : exec (.branchLinked target) s = .next (openFrame called s) :=
    congrArg Host.Outcome.next (openFrame_congr rfl rfl)
  refine ⟨?_, hexec, fun hdepth => ?_⟩
  · obtain ⟨b0, b1, b2, b3, hbytes, htarget⟩ := exists_targetBytes target
    exact ⟨b0, b1, b2, b3, congrArg _ hbytes, htarget⟩
  · rw [hexec, openFrame_of_depth_lt called hdepth]

/-- Settles O21: by whether a call is open. -/
theorem retnPopsOrEndsTheRun : Obligations.RetnPopsOrEndsTheRun :=
  ⟨rfl, fun _ => ⟨exec_retn_of_nil, fun _ _ => exec_retn_of_cons⟩⟩

/-- Settles O22: STOP looks at nothing, so it ends the run in every state. -/
theorem stopEndsTheRun : Obligations.StopEndsTheRun :=
  ⟨rfl, fun _ => rfl⟩

end Sys2Proof.Proofs
end

section
/-! REPEAT one outcome at a time (43_repeat.md R161, R162). -/
namespace Sys2Proof.Machine

section
variable {s : State} {f : Frame} {count : Count}

/-! ## A visit -/

/-- 43_repeat.md R162: with one visit left the loop closes and the outer frame comes back. -/
theorem visitLoop_of_last (top : Pc) (h : f.remaining = 1) : visitLoop top f s = advance 7 (popRepeat s) := if_pos h

/-- 43_repeat.md R162: with more than one visit left one is taken off and control goes to the loop top. -/
theorem visitLoop_of_more (top : Pc) (h : f.remaining ≠ 1) :
    visitLoop top f s = { s with curRepeat := some ⟨f.origin, f.remaining - 1⟩, pc := top } := if_neg h

/-- 43_repeat.md R162: the visit made in the step that pushes its frame. When it closes the loop it takes that frame off
again, so the frames and the depth are as they were. -/
theorem visitLoop_pushRepeat (top : Pc) (count : Count) (s : State) :
    visitLoop top ⟨s.pc, count⟩ (pushRepeat ⟨s.pc, count⟩ s) =
      let frames := s.curRepeat.toList ++ s.repeatStack
      if count = 1 then { s with curRepeat := frames.head?, repeatStack := frames.tail, pc := s.pc + 7 }
      else
        { s with curRepeat := some ⟨s.pc, count - 1⟩, repeatStack := frames, depth := s.depth + 1, pc := top } := by
  by_cases hlast : count = 1
  · rw [visitLoop_of_last top hlast, if_pos hlast]
    rfl
  · rw [visitLoop_of_more top hlast, if_neg hlast]
    rfl

/-! ## REPEAT -/

/-- 43_repeat.md R161: a current frame opened at this very offset makes the visit a continuing one. -/
theorem exec_repeatLoop_of_current (top : Pc) (count : Count) (h : s.curRepeat = some f) (ho : f.origin = s.pc) :
    exec (.repeatLoop top count) s = .next (visitLoop top f s) := by
  simp only [exec, execRepeat, h, if_pos ho]

section
variable (hfirst : ∀ f, s.curRepeat = some f → f.origin ≠ s.pc)
include hfirst

/-- 43_repeat.md R161: any other visit is a first visit. -/
theorem exec_repeatLoop_of_first (top : Pc) (count : Count) :
    exec (.repeatLoop top count) s = .next (firstVisit top count s) := by
  rcases execRepeat_cases top count s with ⟨f, hf, ho, -⟩ | ⟨-, e⟩
  · exact absurd ho (hfirst f hf)
  · exact e

/-- 43_repeat.md R162, R164: a first visit with count 0 faults. -/
theorem exec_repeatLoop_of_zero (top : Pc) (hc : count = 0) :
    exec (.repeatLoop top count) s = .next (raiseFault .repeatZero s) := by
  rw [exec_repeatLoop_of_first hfirst, firstVisit, if_pos hc]

/-- 43_repeat.md R162: a first visit with another count opens its frame and visits the loop. -/
theorem exec_repeatLoop_opens (top : Pc) (hc : count ≠ 0) :
    exec (.repeatLoop top count) s =
      .next (openFrame (fun t => visitLoop top ⟨t.pc, count⟩ (pushRepeat ⟨t.pc, count⟩ t)) s) := by
  rw [exec_repeatLoop_of_first hfirst, firstVisit, if_neg hc]

end

end

end Sys2Proof.Machine
end

section
/-! The statement about one execution of REPEAT (43_repeat.md). -/
namespace Sys2Proof.Proofs
open Sys2Proof.Machine

/-- Settles O23: by whether the current frame is this REPEAT's own and how many visits it has left. An opening touches
none of the fields the visit after it reads, and below `FAST_DEPTH` it cannot fail. -/
theorem repeatOpensClosesOrGoesRound : Obligations.RepeatOpensClosesOrGoesRound := by
  intro s top count first outer opened
  have hopen (hfirst : first) (hc : count ≠ 0) : exec (.repeatLoop top count) s = .next (openFrame opened s) := by
    rw [exec_repeatLoop_opens hfirst top hc]
    exact congrArg _ (openFrame_congr (visitLoop_pushRepeat top count s) (visitLoop_pushRepeat top count (spendDraw s)))
  refine ⟨fun r hr hmore => ?_, fun hr => ?_, fun hfirst hc => exec_repeatLoop_of_zero hfirst top hc, hopen,
    fun hfirst hc hdepth => ?_⟩
  · rw [exec_repeatLoop_of_current top count hr rfl, visitLoop_of_more top hmore]
  · rw [exec_repeatLoop_of_current top count hr rfl, visitLoop_of_last top rfl]
    rfl
  · rw [hopen hfirst hc, openFrame_of_depth_lt opened hdepth]

end Sys2Proof.Proofs
end

section
/-! The host's operations one outcome at a time: what a load accepts, what a read gives back, and the arrays of a world
cell by cell (44_host_operations.md R171 to R183). -/
namespace Sys2Proof.Machine

/-! ## What a load accepts -/

/-- 44_host_operations.md R171: a first byte makes the image not empty. -/
theorem imageAccepted_iff {bytes : List Byte} :
    imageAccepted bytes = true ↔
      1 ≤ bytes.length ∧ bytes.length ≤ 2 ^ 32 - 1 ∧ bytes.head? = some 0x06 := by
  have hretn : plainHead .retn = 0x06 := rfl
  cases bytes with
  | nil => simp [imageAccepted]
  | cons b rest => simp [imageAccepted, Config.maxImageLen, hretn]

theorem cellByteAccepted_iff {b : Byte} :
    cellByteAccepted b = true ↔ b.toNat ≤ Config.maxFlags ∨ b.toNat = 255 := by
  simp [cellByteAccepted, Config.wallByte, BitVec.toNat_eq]

/-- 44_host_operations.md R173: the check a load of a world makes, `hostLoadWorld`'s own. -/
def worldAccepted (cells : CellArray) (r : RobotRecord) : Bool := cells.toList.all cellByteAccepted && robotAccepted r

theorem worldAccepted_iff {cells : CellArray} {r : RobotRecord} :
    worldAccepted cells r = true ↔
      (∀ b ∈ cells.toList, b.toNat ≤ Config.maxFlags ∨ b.toNat = 255) ∧
        r.px.toNat < Config.gridSide ∧ r.py.toNat < Config.gridSide ∧ r.d.toNat ≤ 3 := by
  simp only [worldAccepted, robotAccepted, Bool.and_eq_true, List.all_eq_true, cellByteAccepted_iff, decide_eq_true_eq,
    and_assoc]

/-! ## Loads, accepted and refused -/

section
variable {s : State} {bytes : List Byte} {cells : CellArray} {r : RobotRecord}

theorem hostMove_loadImage_of_accepted (h : imageAccepted bytes = true) :
    hostMove (.loadImage bytes) s = installImage bytes s := if_pos h

theorem hostMove_loadImage_of_refused (h : ¬ imageAccepted bytes = true) :
    hostMove (.loadImage bytes) s = raiseFault .badImage s := if_neg h

theorem hostMove_loadWorld_of_accepted (h : worldAccepted cells r = true) :
    hostMove (.loadWorld cells r) s = installWorld cells r s := if_pos h

theorem hostMove_loadWorld_of_refused (h : ¬ worldAccepted cells r = true) :
    hostMove (.loadWorld cells r) s = raiseFault .badWorld s := if_neg h

/-- 44_host_operations.md R173: a load that leaves no fault behind was accepted. -/
theorem worldAccepted_of_fault_eq_none (h : (hostMove (.loadWorld cells r) s).fault = none) :
    worldAccepted cells r = true := by
  by_contra hrefused
  simp [hostMove_loadWorld_of_refused hrefused] at h

/-! ## Reads and runs, by the validity flags -/

theorem hostMove_readWorld_of_valid (h : s.worldValid = true) :
    hostMove .readWorld s = giveBack (.world (exportCells s.grid)) s := if_pos h

theorem hostMove_readWorld_of_not_valid (h : s.worldValid = false) :
    hostMove .readWorld s = raiseFault .worldNotLoaded s := if_neg (by simp [h])

theorem hostMove_readRobot_of_valid (h : s.worldValid = true) :
    hostMove .readRobot s = giveBack (.robot (robotRecord s)) s := if_pos h

theorem hostMove_readRobot_of_not_valid (h : s.worldValid = false) :
    hostMove .readRobot s = raiseFault .worldNotLoaded s := if_neg (by simp [h])

theorem hostMove_run_of_valid (entry : Pc) (hb : s.bytecodeValid = true) (hw : s.worldValid = true) :
    hostMove (.run entry) s = startRun entry s := if_pos (by simp [hb, hw])

/-- 44_host_operations.md R183: STATE_NOT_VALID is given back and nothing of the block changes. -/
theorem hostMove_run_of_not_valid (entry : Pc) (h : s.bytecodeValid = false ∨ s.worldValid = false) :
    hostMove (.run entry) s = giveBack (.status (Config.statusNumber .stateNotValid)) s := by
  refine if_neg ?_
  rcases h with hb | hw
  · simp [hb]
  · simp [hw]

end

/-! ## One cell as a byte and back -/

/-- 44_host_operations.md R174: an accepted byte that is no wall is a flag count, and fits in a nibble. -/
theorem importCell_toNat {b : Byte} (h : b.toNat ≤ Config.maxFlags ∨ b.toNat = 255) :
    (importCell b).toNat = if b.toNat = 255 then 15 else b.toNat := by
  have hwall : b = Config.wallByte ↔ b.toNat = 255 := BitVec.toNat_eq
  simp only [importCell, hwall, Config.maxFlags] at *
  split
  · rfl
  · rw [BitVec.toNat_setWidth]
    omega

/-- 44_host_operations.md R174: the byte given back for a cell. -/
theorem exportCell_toNat (v : Nibble) : (exportCell v).toNat = if v.toNat = 15 then 255 else v.toNat := by
  have hwall : v = Config.wall ↔ v.toNat = 15 := BitVec.toNat_eq
  simp only [exportCell, hwall]
  split
  · rfl
  · exact BitVec.toNat_setWidth_of_le (by decide)

/-- 44_host_operations.md R182: a wall comes back as a wall, and no flag count is taken for one. -/
theorem exportCell_importCell {b : Byte} (h : b.toNat ≤ Config.maxFlags ∨ b.toNat = 255) :
    exportCell (importCell b) = b := by
  apply BitVec.eq_of_toNat_eq
  rw [exportCell_toNat, importCell_toNat h]
  simp only [Config.maxFlags] at h
  split_ifs <;> omega

/-! ## The arrays -/

@[simp] theorem exportCells_getElem (g : Memory) {i : Nat} (h : i < Config.cellCount) :
    (exportCells g)[i] = exportCell (cellValue g (i % Config.gridSide) (i / Config.gridSide)) := by
  simp [exportCells]

/-- 44_host_operations.md R175: the array given back, by the coordinates of a cell. -/
theorem exportCells_at_cell (g : Memory) {x y : Nat} (h : InGrid x y) :
    (exportCells g).toList[x + y * Config.gridSide]? = some (exportCell (cellValue g x y)) := by
  obtain ⟨hx, hy⟩ := h
  have hi : x + y * Config.gridSide < Config.cellCount := cellIndex_lt ⟨hx, hy⟩
  have hcol : (x + y * Config.gridSide) % Config.gridSide = x := by
    rw [Nat.add_mul_mod_self_right, Nat.mod_eq_of_lt hx]
  have hrow : (x + y * Config.gridSide) / Config.gridSide = y := by
    rw [Nat.add_mul_div_right _ _ (by decide), Nat.div_eq_of_lt hx, Nat.zero_add]
  rw [List.getElem?_eq_getElem (by simpa using hi), Vector.getElem_toList, exportCells_getElem g hi, hcol, hrow]

/-- 44_host_operations.md R182: what is read back from a grid after an accepted array was written to it. -/
theorem exportCells_importCells {cells : CellArray} {g : Memory} (hg : g.wf)
    (hc : ∀ b ∈ cells.toList, b.toNat ≤ Config.maxFlags ∨ b.toNat = 255) :
    exportCells (importCells cells g) = cells := by
  obtain ⟨-, -, hcell⟩ := importCells_spec cells hg
  ext1 i hi
  have hindex : i % Config.gridSide + i / Config.gridSide * Config.gridSide = i := Nat.mod_add_div' i _
  have hvalue := hcell (i % Config.gridSide) (i / Config.gridSide) (by rwa [hindex]) (cell_of_index hi)
  simp only [hindex] at hvalue
  rw [exportCells_getElem _ hi, hvalue, exportCell_importCell (hc _ (by simp))]

end Sys2Proof.Machine
end

section
/-! What a move can do to the register `status` (44_host_operations.md R185). -/
namespace Sys2Proof.Machine

/-- 10_state.md R29, 44_host_operations.md R184: the numbers of the seven codes the block itself writes. -/
theorem statusNumber_mem_of_written :
    ∀ c ∈ Status.inProgress :: terminalStatuses, Config.statusNumber c ∈ [0, 1, 2, 8, 9, 10, 11] := by
  decide

@[simp] theorem visitLoop_status (top : Pc) (f : Frame) (s : State) : (visitLoop top f s).status = s.status := by
  rcases visitLoop_cases top f s with ⟨-, e⟩ | ⟨-, e⟩ <;> rw [e] <;> simp

@[simp] theorem visitLoop_statusWritten (top : Pc) (f : Frame) (s : State) :
    (visitLoop top f s).statusWritten = s.statusWritten := by
  rcases visitLoop_cases top f s with ⟨-, e⟩ | ⟨-, e⟩ <;> rw [e] <;> simp

/-- The register and its having been written are as before, or nothing has been written since reset, or the register
holds IN_PROGRESS or a terminal code. -/
def StatusKeptOrWritten (s t : State) : Prop :=
  (t.status = s.status ∧ t.statusWritten = s.statusWritten) ∨ t.statusWritten = false ∨
    ∃ c ∈ Status.inProgress :: terminalStatuses, t.status = Config.statusNumber c

/-- An instruction writes the register only where it ends the run (40_fetch_dispatch.md R108). -/
theorem Effect.statusKeptOrWritten {s t : State} {i : Instr} (he : Effect s i t) : StatusKeptOrWritten s t := by
  cases he with
  | ends _ code hcode => exact .inr (.inr ⟨code, .tail _ hcode, rfl⟩)
  | growthFails => exact .inr (.inr ⟨.unknownError, by decide, rfl⟩)
  | calls _ _ hu | opens _ _ _ _ _ hu => rcases hu with rfl | rfl <;> exact .inl (by simp)
  | notFlagcount | repeatZero | offGrid | moves | turns | takes | adds | jumps | fallsThrough | returns | visits =>
    exact .inl (by simp)

theorem interpreterTurn_statusKeptOrWritten {s t : State} (h : interpreterTurn s = .next t) :
    StatusKeptOrWritten s t := by
  obtain ⟨-, -, ⟨c, -, rfl⟩ | ⟨i, -, he⟩⟩ := interpreterTurn_next h
  · exact .inl ⟨rfl, rfl⟩
  · exact (exec_effect he).statusKeptOrWritten

/-- The host writes the register only where it starts a run (44_host_operations.md R177). -/
theorem hostMove_statusKeptOrWritten (op : HostOp) (s : State) : StatusKeptOrWritten s (hostMove op s) := by
  rcases hostMove_cases op s with ⟨-, hreset⟩ | ⟨_, -, -, hload⟩ | ⟨_, _, -, -, -, hload⟩ | ⟨_, -, -, -, hstart⟩ |
    ⟨-, hmask⟩ | ⟨u, _, hu, hreply⟩ | ⟨_, -, -, hrefused⟩
  · exact .inr (.inl (by rw [hreset]; rfl))
  · exact .inl (by simp [hload])
  · exact .inl (by simp [hload])
  · exact .inr (.inr ⟨.inProgress, .head _, by simp [hstart]⟩)
  · exact .inl (by simp [hmask])
  · rcases hu with rfl | rfl <;> exact .inl (by simp [hreply])
  · exact .inl (by simp [hrefused])

theorem step_statusKeptOrWritten {s t : State} (h : step s = .next t) : StatusKeptOrWritten s t := by
  rcases step_next h with ⟨u, rfl | rfl, hu⟩ | ⟨op, _, -, -, rfl⟩
  · exact interpreterTurn_statusKeptOrWritten hu
  · have hkept : StatusKeptOrWritten (popAgenda s) t := interpreterTurn_statusKeptOrWritten hu
    exact hkept
  · exact hostMove_statusKeptOrWritten op (popAgenda s)

end Sys2Proof.Machine
end

section
/-! The statements about the host's operations and the register `status` (44_host_operations.md). -/
namespace Sys2Proof.Proofs
open Sys2Proof.Machine

/-- Settles O41: a step keeps the register, forgets that it was written, or writes one of the block's own codes. -/
theorem statusHoldsOnlyTheBlocksCodes : Obligations.StatusHoldsOnlyTheBlocksCodes := by
  refine ⟨by simp [State.reset], fun s t hs hstep hw => ?_⟩
  rcases step_statusKeptOrWritten hstep with ⟨hstatus, hwritten⟩ | hreset | ⟨c, hc, hstatus⟩
  · rw [hstatus]
    exact hs (hwritten ▸ hw)
  · rw [hreset] at hw
    cases hw
  · rw [hstatus]
    exact statusNumber_mem_of_written c hc

/-- Settles O46: the stated condition is the model's check, and the new image is a space holding the bytes alone. -/
theorem loadImageInstallsTheBytes : Obligations.LoadImageInstallsTheBytes := by
  intro s bytes accepted
  have hiff : imageAccepted bytes = true ↔ accepted := imageAccepted_iff
  refine ⟨fun h => ?_, fun h => hostMove_loadImage_of_refused (mt hiff.1 h)⟩
  rw [hostMove_loadImage_of_accepted (hiff.2 h)]
  obtain ⟨-, hlen, -⟩ := h
  refine ⟨rfl, ?_, Memory.ofBytes_wf bytes, fun a ha => ?_⟩
  · rw [installImage_imageLen, BitVec.toNat_ofNat, Nat.mod_eq_of_lt (by omega)]
  · rw [installImage_image, Memory.read_ofBytes, List.getD_eq_getElem _ _ ha]

/-- Settles O47: the stated condition is the model's check, and the loop over the array leaves every cell as its byte
says. -/
theorem loadWorldReplacesTheWorld : Obligations.LoadWorldReplacesTheWorld := by
  intro s cells r hg accepted
  have hiff : worldAccepted cells r = true ↔ accepted := worldAccepted_iff
  refine ⟨fun h => ?_, fun h => hostMove_loadWorld_of_refused (mt hiff.1 h)⟩
  rw [hostMove_loadWorld_of_accepted (hiff.2 h)]
  obtain ⟨hbytes, -, -, hd⟩ := h
  obtain ⟨hwf, -, hcell⟩ := importCells_spec cells hg
  refine ⟨rfl, ?_, hwf, fun x y hx hy => ?_⟩
  · rw [installWorld_d, BitVec.toNat_setWidth, Nat.mod_eq_of_lt (by omega)]
  · have hin : InGrid x y := ⟨hx, hy⟩
    have hi : x + y * Config.gridSide < Config.cellCount := cellIndex_lt hin
    refine ⟨cells[x + y * Config.gridSide], _, by simp [hi], gridGet_of_inGrid _ hin, ?_⟩
    rw [installWorld_grid, hcell x y hi hin, importCell_toNat (hbytes _ (by simp))]

/-- Settles O48: a load that leaves no fault was accepted, and exporting undoes importing on accepted bytes. -/
theorem worldRoundTrip : Obligations.WorldRoundTrip := by
  intro s cells r hg _ hload
  have haccepted : worldAccepted cells r = true := worldAccepted_of_fault_eq_none hload
  obtain ⟨hbytes, -⟩ := worldAccepted_iff.1 haccepted
  rw [hostMove_loadWorld_of_accepted haccepted, hostMove_readWorld_of_valid rfl, giveBack_reply, installWorld_grid,
    exportCells_importCells hg hbytes]

/-- Settles O49: by the validity flag; the array says of each cell what the grid holds. -/
theorem readWorldReturnsEveryCell : Obligations.ReadWorldReturnsEveryCell := by
  refine fun s => ⟨fun hv => ⟨_, hostMove_readWorld_of_valid hv, fun x y hx hy => ?_⟩, hostMove_readWorld_of_not_valid⟩
  have hin : InGrid x y := ⟨hx, hy⟩
  exact ⟨_, _, exportCells_at_cell s.grid hin, gridGet_of_inGrid s.grid hin, exportCell_toNat _⟩

/-- Settles O50: by the validity flag; `d` is extended with zeros. -/
theorem readRobotReturnsTheRegisters : Obligations.ReadRobotReturnsTheRegisters :=
  fun s => ⟨fun hv => ⟨s.d.setWidth 32, BitVec.toNat_setWidth_of_le (by decide), hostMove_readRobot_of_valid hv⟩,
    hostMove_readRobot_of_not_valid⟩

/-- Settles O52: by the two validity flags. -/
theorem runStartsAFreshExecution : Obligations.RunStartsAFreshExecution :=
  fun _ entry => ⟨hostMove_run_of_valid entry, hostMove_run_of_not_valid entry⟩

/-- Settles O53: the mask is all it writes, and a started run writes the mask again. -/
theorem shortCircuitIsALevel : Obligations.ShortCircuitIsALevel := by
  refine fun s => ⟨rfl, rfl, rfl, fun entry hb hw => ?_⟩
  have hstart : hostMove (.run entry) (hostMove .shortCircuit s) = startRun entry (hostShortCircuit s) :=
    hostMove_run_of_valid entry hb hw
  rw [hstart, hostMove_run_of_valid entry hb hw]
  rfl

end Sys2Proof.Proofs
end

section
/-! A block with a fault recorded: which moves are left to each agent and what they keep (60_exceptions.md R205). -/
namespace Sys2Proof.Machine
open Sys2Proof.Safety

/-- 44_host_operations.md R170: three operations are always enabled, the others while the block is idle and
unfaulted. -/
theorem hostEnabled_iff {op : HostOp} {s : State} :
    hostEnabled op s = true ↔
      (op = .reset ∨ op = .shortCircuit ∨ op = .readStatus) ∨ (s.busy = false ∧ s.fault = none) := by
  cases op <;> simp [hostEnabled]

/-- 44_host_operations.md R179: reading the status gives a value back, the register's or one drawn freely. -/
theorem hostMove_readStatus_cases (s : State) :
    ∃ u r, (u = s ∨ u = spendDraw s) ∧ hostMove .readStatus s = giveBack r u := by
  cases hw : s.statusWritten
  · exact ⟨_, _, .inr rfl, if_neg (by simp [hw])⟩
  · exact ⟨_, _, .inl rfl, if_pos hw⟩

/-- The two operations besides reset that are always enabled keep what R205 says a faulted block keeps. -/
theorem hostMove_keeps_of_alwaysEnabled {op : HostOp} (hop : op = .shortCircuit ∨ op = .readStatus) (s : State) :
    (hostMove op s).fault = s.fault ∧ (hostMove op s).status = s.status ∧ (hostMove op s).busy = s.busy ∧
      SameWorld s (hostMove op s) := by
  rcases hop with rfl | rfl
  · exact ⟨rfl, rfl, rfl, rfl, rfl, rfl, rfl, rfl, rfl⟩
  · obtain ⟨u, r, rfl | rfl, hreply⟩ := hostMove_readStatus_cases s <;> simp [hreply, SameWorld]

section
variable {s : State} {c : Cause} (hc : s.fault = some c)
include hc

theorem interpreterTurn_ne_next_of_faulted (t : State) : interpreterTurn s ≠ .next t := by
  intro ht
  obtain ⟨hnone, -, -⟩ := interpreterTurn_next ht
  simp [hc] at hnone

theorem hostEnabled_iff_of_faulted {op : HostOp} :
    hostEnabled op s = true ↔ op = .reset ∨ op = .shortCircuit ∨ op = .readStatus := by
  simp [hostEnabled_iff, hc]

/-- Every step of a faulted block is a move of the host's, by one of the operations that are always enabled. -/
theorem step_next_of_faulted {t : State} (h : step s = .next t) :
    ∃ op rest, s.agenda = .host op :: rest ∧ (op = .reset ∨ op = .shortCircuit ∨ op = .readStatus) ∧
      t = hostMove op (popAgenda s) := by
  rcases step_next h with ⟨u, hu, hturn⟩ | ⟨op, rest, hagenda, henabled, ht⟩
  · have hcu : u.fault = some c := by rcases hu with rfl | rfl <;> exact hc
    exact absurd hturn (interpreterTurn_ne_next_of_faulted hcu t)
  · exact ⟨op, rest, hagenda, (hostEnabled_iff_of_faulted hc).1 henabled, ht⟩

end

end Sys2Proof.Machine
end

section
/-! The statement about a recorded fault (60_exceptions.md R205). -/
namespace Sys2Proof.Proofs
open Sys2Proof.Machine

/-- Settles O55: the interpreter's turn needs the fault to be absent, so a step is an always enabled operation of the
host's, and of these only reset writes what is to be kept. -/
theorem faultIsSticky : Obligations.FaultIsSticky := by
  refine fun s c hc => ⟨interpreterTurn_ne_next_of_faulted hc, fun _ => hostEnabled_iff_of_faulted hc,
    fun t hstep hnotReset => ?_⟩
  obtain ⟨op, rest, hagenda, rfl | hop, rfl⟩ := step_next_of_faulted hc hstep
  · exact absurd hagenda (hnotReset rest)
  · obtain ⟨hfault, hstatus, hbusy, hworld⟩ := hostMove_keeps_of_alwaysEnabled hop (popAgenda s)
    exact ⟨hfault.trans hc, hstatus, hbusy, hworld⟩

end Sys2Proof.Proofs
end

section
/-! Who writes the image and who writes the world (70_reset_and_hazards.md R232). -/
namespace Sys2Proof.Machine
open Sys2Proof.Safety

/-- The image, its length and `bytecode_valid` are as before. -/
def ImageKept (s t : State) : Prop :=
  t.image = s.image ∧ t.imageLen = s.imageLen ∧ t.bytecodeValid = s.bytecodeValid

/-- The robot, the grid and `world_valid` are as before. -/
def WorldKept (s t : State) : Prop := SameWorld s t ∧ t.worldValid = s.worldValid

/-! ## The interpreter -/

theorem visitLoop_imageKept (top : Pc) (f : Frame) (s : State) : ImageKept s (visitLoop top f s) := by
  rcases visitLoop_cases top f s with ⟨-, e⟩ | ⟨-, e⟩ <;> rw [e] <;> exact ⟨rfl, rfl, rfl⟩

/-- No instruction writes the image. -/
theorem Effect.imageKept {s t : State} {i : Instr} (he : Effect s i t) : ImageKept s t := by
  cases he with
  | visits top _ f => exact visitLoop_imageKept top f s
  | opens top count u _ _ hu =>
    have hvisit : ImageKept u _ := visitLoop_imageKept top ⟨u.pc, count⟩ (pushRepeat ⟨u.pc, count⟩ u)
    rcases hu with rfl | rfl <;> exact hvisit
  | calls _ _ hu => rcases hu with rfl | rfl <;> exact ⟨rfl, rfl, rfl⟩
  | ends | growthFails | notFlagcount | repeatZero | offGrid | moves | turns | takes | adds | jumps | fallsThrough
  | returns => exact ⟨rfl, rfl, rfl⟩

theorem interpreterTurn_imageKept {s t : State} (h : interpreterTurn s = .next t) : ImageKept s t := by
  obtain ⟨-, -, ⟨c, -, rfl⟩ | ⟨i, -, he⟩⟩ := interpreterTurn_next h
  · exact ⟨rfl, rfl, rfl⟩
  · exact (exec_effect he).imageKept

/-- A turn whose fetch fails leaves the world; any other is an instruction of the run in progress. -/
theorem interpreterTurn_worldKept_or_exec {s t : State} (h : interpreterTurn s = .next t) :
    WorldKept s t ∨ (s.busy = true ∧ ∃ i, exec i s = .next t) := by
  obtain ⟨-, hbusy, ⟨c, -, rfl⟩ | ⟨i, -, he⟩⟩ := interpreterTurn_next h
  · exact .inl ⟨⟨rfl, rfl, rfl, rfl, rfl, rfl⟩, rfl⟩
  · exact .inr ⟨hbusy, i, he⟩

/-! ## The host -/

/-- Of the host's operations only reset and the image load write the image, and only reset and the world load write the
world. -/
theorem hostMove_writers (op : HostOp) (s : State) :
    (ImageKept s (hostMove op s) ∨ op = .reset ∨ ∃ bytes, op = .loadImage bytes) ∧
    (WorldKept s (hostMove op s) ∨ op = .reset ∨ ∃ cells robot, op = .loadWorld cells robot) := by
  rcases hostMove_cases op s with ⟨hop, -⟩ | ⟨bytes, hop, -, hload⟩ | ⟨cells, r, hop, -, -, hload⟩ |
    ⟨_, -, -, -, hstart⟩ | ⟨-, hmask⟩ | ⟨u, _, hu, hreply⟩ | ⟨_, -, -, hrefused⟩
  · exact ⟨.inr (.inl hop), .inr (.inl hop)⟩
  · exact ⟨.inr (.inr ⟨bytes, hop⟩), .inl (by simp [hload, WorldKept, SameWorld])⟩
  · exact ⟨.inl (by simp [hload, ImageKept]), .inr (.inr ⟨cells, r, hop⟩)⟩
  · simp [hstart, ImageKept, WorldKept, SameWorld]
  · simp [hmask, ImageKept, WorldKept, SameWorld]
  · rcases hu with rfl | rfl <;> simp [hreply, ImageKept, WorldKept, SameWorld]
  · simp [hrefused, ImageKept, WorldKept, SameWorld]

/-! ## One step -/

theorem step_imageKept_or {s t : State} (h : step s = .next t) :
    ImageKept s t ∨ (∃ rest, s.agenda = .host .reset :: rest) ∨
      ∃ bytes rest, s.agenda = .host (.loadImage bytes) :: rest ∧ s.busy = false := by
  rcases step_next h with ⟨u, rfl | rfl, hturn⟩ | ⟨op, rest, hagenda, henabled, rfl⟩
  · exact .inl (interpreterTurn_imageKept hturn)
  · have hkept : ImageKept (popAgenda s) t := interpreterTurn_imageKept hturn
    exact .inl hkept
  · rcases (hostMove_writers op (popAgenda s)).1 with hkept | rfl | ⟨bytes, rfl⟩
    · exact .inl hkept
    · exact .inr (.inl ⟨rest, hagenda⟩)
    · exact .inr (.inr ⟨bytes, rest, hagenda, ((hostEnabled_iff.1 henabled).resolve_left (by simp)).1⟩)

theorem step_worldKept_or {s t : State} (h : step s = .next t) :
    WorldKept s t ∨ (s.busy = true ∧ ∃ u i, SameWorld s u ∧ u.busy = true ∧ exec i u = .next t) ∨
      (∃ rest, s.agenda = .host .reset :: rest) ∨
      ∃ cells robot rest, s.agenda = .host (.loadWorld cells robot) :: rest ∧ s.busy = false := by
  rcases step_next h with ⟨u, hu, hturn⟩ | ⟨op, rest, hagenda, henabled, rfl⟩
  · have hsame : SameWorld s u := by rcases hu with rfl | rfl <;> exact ⟨rfl, rfl, rfl, rfl, rfl, rfl⟩
    have hbusy : u.busy = s.busy := by rcases hu with rfl | rfl <;> rfl
    rcases interpreterTurn_worldKept_or_exec hturn with hkept | ⟨hrun, i, he⟩
    · exact .inl (by rcases hu with rfl | rfl <;> exact hkept)
    · exact .inr (.inl ⟨hbusy ▸ hrun, u, i, hsame, hrun, he⟩)
  · rcases (hostMove_writers op (popAgenda s)).2 with hkept | rfl | ⟨cells, robot, rfl⟩
    · exact .inl hkept
    · exact .inr (.inr (.inl ⟨rest, hagenda⟩))
    · exact .inr (.inr (.inr ⟨cells, robot, rest, hagenda, ((hostEnabled_iff.1 henabled).resolve_left (by simp)).1⟩))

end Sys2Proof.Machine
end

section
/-! The statement about the writers of the world and the image (70_reset_and_hazards.md R232). -/
namespace Sys2Proof.Proofs
open Sys2Proof.Machine

/-- Settles O35: the interpreter writes the world through an instruction only and never the image; of the host's
operations reset writes both, and each load, which waits for the end of a run, one of them. -/
theorem onlyLoadsResetAndRunsChangeTheWorld : Obligations.OnlyLoadsResetAndRunsChangeTheWorld :=
  fun _ _ hstep => ⟨step_worldKept_or hstep, step_imageKept_or hstep⟩

end Sys2Proof.Proofs
end

section
/-! An instruction as its encoding spells it, head byte and operands, and what each decoder step reads back
(30_encoding.md R81 to R86, R98). -/
namespace Sys2Proof

/-! ## The parts of an encoding -/

/-- The condition an instruction's head byte carries: NONE where the field is unused (30_encoding.md R90). -/
def Instr.cond : Instr → Cond
  | .branch cond _ _ => cond
  | _ => .none

/-- The invert bit an instruction's head byte carries: 0 where the field is unused (30_encoding.md R91). -/
def Instr.inv : Instr → Bool
  | .branch _ inv _ => inv
  | _ => false

/-- The bytes of an instruction after its head (30_encoding.md R82, R83). -/
def Instr.operands : Instr → List Byte
  | .branch _ _ target | .branchLinked target => targetBytes target
  | .repeatLoop top count => targetBytes top ++ countBytes count
  | _ => []

theorem encode_eq_head_cons (i : Instr) : encode i = encodeHead i.tag i.cond i.inv :: i.operands := by
  cases i <;> rfl

theorem length_operands (i : Instr) : i.operands.length + 1 = i.tag.length := by
  cases i <;> rfl

theorem unused_fields_of_ne_branch {i : Instr} (h : i.tag ≠ .branch) : i.cond = .none ∧ i.inv = false := by
  cases i with
  | branch => exact absurd rfl h
  | step | left | pickUp | place | branchLinked | retn | stop | repeatLoop => exact ⟨rfl, rfl⟩

/-! ## Operands -/

/-- 30_encoding.md R82, R85: joining undoes splitting. -/
theorem readTarget_targetBytes (w : Pc) (rest : List Byte) : readTarget (targetBytes w ++ rest) = some (w, rest) := by
  obtain ⟨b0, b1, b2, b3, hbytes, hw⟩ := exists_targetBytes w
  have hjoin : joinTarget b0 b1 b2 b3 = w := BitVec.eq_of_toNat_eq ((joinTarget_toNat b0 b1 b2 b3).trans hw.symm)
  rw [hbytes, ← hjoin]
  rfl

/-- 30_encoding.md R83, R86: joining undoes splitting. -/
theorem readCount_countBytes (c : Count) (rest : List Byte) : readCount (countBytes c ++ rest) = some (c, rest) := by
  have hjoin : joinCount (c.extractLsb' 0 8) (c.extractLsb' 8 8) = c := by
    apply BitVec.eq_of_toNat_eq
    have hc : c.toNat < 2 ^ 16 := c.isLt
    simp only [joinCount_toNat, BitVec.extractLsb'_toNat, Nat.shiftRight_eq_div_pow]
    omega
  rw [countBytes_eq, List.cons_append, List.cons_append, List.nil_append, readCount, hjoin]

/-- 30_encoding.md R82, R85: splitting undoes joining. -/
theorem targetBytes_joinTarget (b0 b1 b2 b3 : Byte) : targetBytes (joinTarget b0 b1 b2 b3) = [b0, b1, b2, b3] := by
  have h0 := b0.isLt
  have h1 := b1.isLt
  have h2 := b2.isLt
  have h3 := b3.isLt
  simp only [targetBytes_eq, List.cons.injEq, and_true, BitVec.toNat_eq, BitVec.extractLsb'_toNat, joinTarget_toNat,
    Nat.shiftRight_eq_div_pow]
  omega

/-- 30_encoding.md R83, R86: splitting undoes joining. -/
theorem countBytes_joinCount (b0 b1 : Byte) : countBytes (joinCount b0 b1) = [b0, b1] := by
  have h0 := b0.isLt
  have h1 := b1.isLt
  simp only [countBytes_eq, List.cons.injEq, and_true, BitVec.toNat_eq, BitVec.extractLsb'_toNat, joinCount_toNat,
    Nat.shiftRight_eq_div_pow]
  omega

theorem eq_targetBytes_append {bytes rest : List Byte} {w : Pc} (h : readTarget bytes = some (w, rest)) :
    bytes = targetBytes w ++ rest := by
  unfold readTarget at h
  split at h
  · cases h
    rw [targetBytes_joinTarget]
    rfl
  · cases h

theorem eq_countBytes_append {bytes rest : List Byte} {c : Count} (h : readCount bytes = some (c, rest)) :
    bytes = countBytes c ++ rest := by
  unfold readCount at h
  split at h
  · cases h
    rw [countBytes_joinCount]
    rfl
  · cases h

/-! ## The decoder's last step -/

theorem assemble_operands (i : Instr) (rest : List Byte) :
    assemble i.tag i.cond i.inv (i.operands ++ rest) = some (i, rest) := by
  cases i with
  | branch | branchLinked => simp [assemble, Instr.tag, Instr.operands, Instr.cond, Instr.inv, readTarget_targetBytes]
  | repeatLoop =>
    simp [assemble, Instr.tag, Instr.operands, readTarget_targetBytes, readCount_countBytes]
  | step | left | pickUp | place | retn | stop => rfl

/-- What is assembled keeps the fields it was given where its opcode has them, and consumes exactly its operands. -/
theorem eq_operands_append_of_assemble {tag : Tag} {cond : Cond} {inv : Bool} {bytes rest : List Byte} {i : Instr}
    (h : assemble tag cond inv bytes = some (i, rest)) :
    bytes = i.operands ++ rest ∧ (tag = .branch → i.cond = cond ∧ i.inv = inv) := by
  cases tag with
  | step | left | pickUp | place | retn | stop =>
    cases h
    exact ⟨rfl, nofun⟩
  | branch =>
    obtain ⟨⟨w, rest'⟩, hw, he⟩ := Option.map_eq_some_iff.1 h
    cases he
    exact ⟨eq_targetBytes_append hw, fun _ => ⟨rfl, rfl⟩⟩
  | branchLinked =>
    obtain ⟨⟨w, rest'⟩, hw, he⟩ := Option.map_eq_some_iff.1 h
    cases he
    exact ⟨eq_targetBytes_append hw, nofun⟩
  | repeatLoop =>
    obtain ⟨⟨w, bytes'⟩, hw, h'⟩ := Option.bind_eq_some_iff.1 h
    obtain ⟨⟨c, rest'⟩, hc, he⟩ := Option.map_eq_some_iff.1 h'
    cases he
    have hcount : bytes' = countBytes c ++ rest' := eq_countBytes_append hc
    rw [eq_targetBytes_append hw, hcount]
    exact ⟨(List.append_assoc ..).symm, nofun⟩

/-- 30_encoding.md R98: with enough bytes after the head every opcode assembles. -/
theorem exists_assemble (tag : Tag) (cond : Cond) (inv : Bool) {rest : List Byte} (h : 6 ≤ rest.length) :
    ∃ p, assemble tag cond inv rest = some p := by
  match rest, h with
  | _ :: _ :: _ :: _ :: _ :: _ :: _, _ => cases tag <;> exact ⟨_, rfl⟩

/-- 30_encoding.md R98: the checks a decoded sequence has passed. -/
theorem decode_eq_ok {bytes : List Byte} {p : Instr × List Byte} (h : decode bytes = .ok p) :
    ∃ head rest tag, bytes = head :: rest ∧ tagOf (headTag head) = some tag ∧
      ¬(tag ≠ .branch ∧ (headCond head ≠ 0 ∨ headInv head ≠ 0)) ∧
      assemble tag (condOf (headCond head)) (headInv head == 1) rest = some p := by
  cases bytes with
  | nil => cases h
  | cons head rest =>
    cases ht : tagOf (headTag head) with
    | none => simp [decode_illegalTag ht] at h
    | some tag =>
      by_cases hl : rest.length + 1 < tag.length
      · simp [decode_truncated ht hl] at h
      by_cases hr : tag ≠ .branch ∧ (headCond head ≠ 0 ∨ headInv head ≠ 0)
      · rw [decode_reservedField ht (Nat.not_lt.1 hl) hr] at h
        cases h
      cases hp : assemble tag (condOf (headCond head)) (headInv head == 1) rest with
      | none =>
        simp only [decode, ht, if_neg hl, if_neg hr, hp] at h
        cases h
      | some q =>
        rw [decode_of_assemble ht (Nat.not_lt.1 hl) hr hp] at h
        cases h
        exact ⟨head, rest, tag, rfl, ht, hr, hp⟩

theorem ofBool_headInv_beq_one (head : Byte) : BitVec.ofBool (headInv head == 1) = headInv head := by
  generalize headInv head = v
  revert v
  decide

/-- 30_encoding.md R94: no instruction is longer than REPEAT. -/
theorem Tag.length_le_seven (t : Tag) : t.length ≤ 7 := by
  cases t <;> decide

end Sys2Proof
end

section
/-! The statements about whole encodings (30_encoding.md sections 1 to 4). -/
namespace Sys2Proof.Proofs

/-- Settles O1: the head byte's fields and the operands are read back one by one. -/
theorem decodeOfEncodeIsIdentity : Obligations.DecodeOfEncodeIsIdentity := by
  intro i rest
  rw [encode_eq_head_cons, List.cons_append]
  refine decode_of_assemble (tag := i.tag) (by simp) ?_ ?_ ?_
  · have := length_operands i
    rw [List.length_append]
    omega
  · rintro ⟨htag, hfield⟩
    obtain ⟨hcond, hinv⟩ := unused_fields_of_ne_branch htag
    simp [hcond, hinv, Config.condNumber] at hfield
  · rw [headCond_encodeHead, condOf_condNumber, headInv_encodeHead]
    have hinv : (BitVec.ofBool i.inv == 1) = i.inv := by cases i.inv <;> rfl
    rw [hinv, assemble_operands]

/-- Settles O2: the checks a decoded head byte has passed leave it no field but those of the instruction. -/
theorem decodedBytesAreTheEncoding : Obligations.DecodedBytesAreTheEncoding := by
  intro bytes i rest h
  obtain ⟨head, tail, tag, rfl, ht, hr, hp⟩ := decode_eq_ok h
  have htag : i.tag = tag := assemble_tag hp
  obtain ⟨htail, hfields⟩ := eq_operands_append_of_assemble hp
  have hhead : head = encodeHead i.tag i.cond i.inv := by
    rw [htag]
    by_cases hb : tag = .branch
    · obtain ⟨hcond, hinv⟩ := hfields hb
      refine eq_encodeHead (tagNumber_of_tagOf ht).symm ?_ ?_
      · rw [hcond, condNumber_condOf]
      · rw [hinv, ofBool_headInv_beq_one]
    · obtain ⟨hcond, hinv⟩ := unused_fields_of_ne_branch (htag ▸ hb)
      obtain ⟨hcond0, hinv0⟩ : headCond head = 0 ∧ headInv head = 0 := by simpa [hb] using hr
      rw [hcond, hinv]
      exact eq_encodeHead (tagNumber_of_tagOf ht).symm hcond0 hinv0
  rw [encode_eq_head_cons, List.cons_append, ← hhead, ← htail]

/-- Settles O4: the tag decides the first class; a head byte from 16 on sets a condition or the invert bit, which only
BRANCH has. -/
theorem headBytesSplitThreeWays : Obligations.HeadBytesSplitThreeWays := by
  refine ⟨fun head rest hrest => ⟨fun htag => ?_, fun htag hbranch hhead => ?_, fun htag hlegal => ?_⟩, ?_⟩
  · exact decode_illegalTag (tagOf_eq_none.2 (htag.trans_eq (headTag_toNat head).symm))
  · obtain ⟨tag, ht, -⟩ := exists_tagOf_of_lt_nine htag
    have hl : tag.length ≤ rest.length + 1 := by have := tag.length_le_seven; omega
    have hfields : head.toNat / 16 % 8 ≠ 0 ∨ head.toNat / 128 ≠ 0 := by have := head.isLt; omega
    exact decode_reservedField ht hl ((reservedField_iff ht).2 ⟨hbranch, hfields⟩)
  · obtain ⟨tag, ht, -⟩ := exists_tagOf_of_lt_nine htag
    have hl : tag.length ≤ rest.length + 1 := by have := tag.length_le_seven; omega
    have hfields : ¬(head.toNat % 16 ≠ 4 ∧ (head.toNat / 16 % 8 ≠ 0 ∨ head.toNat / 128 ≠ 0)) := by omega
    obtain ⟨p, hp⟩ := exists_assemble tag (condOf (headCond head)) (headInv head == 1) hrest
    exact ⟨p, decode_of_assemble ht hl (mt (reservedField_iff ht).1 hfields) hp⟩
  · exact ⟨rfl, rfl, rfl⟩

/-- Settles O5: the decoder run on each word. -/
theorem specWordsDecode : Obligations.SpecWordsDecode :=
  ⟨rfl, rfl, rfl, rfl, rfl, rfl, rfl, rfl, rfl, rfl⟩

end Sys2Proof.Proofs
end

section
/-! What every next state of an instruction keeps and what it may change: the registers no instruction writes, the
world, the end of the run, and where control goes. -/
namespace Sys2Proof.Machine
open Sys2Proof.Safety

/-! ## A visit of a loop -/

section
variable (top : Pc) (f : Frame) (s : State)

/-- 43_repeat.md R162: a visit writes `pc`, the current frame, the repeat stack and the depth, and nothing else. -/
theorem visitLoop_frame :
    visitLoop top f s =
      { s with
        pc := (visitLoop top f s).pc
        curRepeat := (visitLoop top f s).curRepeat
        repeatStack := (visitLoop top f s).repeatStack
        depth := (visitLoop top f s).depth } := by
  rcases visitLoop_cases top f s with ⟨-, e⟩ | ⟨-, e⟩ <;> rw [e] <;> rfl

@[simp] theorem visitLoop_px : (visitLoop top f s).px = s.px := by rw [visitLoop_frame]
@[simp] theorem visitLoop_py : (visitLoop top f s).py = s.py := by rw [visitLoop_frame]
@[simp] theorem visitLoop_d : (visitLoop top f s).d = s.d := by rw [visitLoop_frame]
@[simp] theorem visitLoop_grid : (visitLoop top f s).grid = s.grid := by rw [visitLoop_frame]
@[simp] theorem visitLoop_busy : (visitLoop top f s).busy = s.busy := by rw [visitLoop_frame]
@[simp] theorem visitLoop_callStack : (visitLoop top f s).callStack = s.callStack := by rw [visitLoop_frame]

/-- 40_fetch_dispatch.md R111: a visit goes to the loop top or falls through. -/
theorem visitLoop_pc : (visitLoop top f s).pc = top ∨ (visitLoop top f s).pc = s.pc + 7 := by
  rcases visitLoop_cases top f s with ⟨-, e⟩ | ⟨-, e⟩ <;> rw [e]
  · exact .inr rfl
  · exact .inl rfl

end

/-! ## The registers no instruction writes -/

/-- The home registers, the validity of the world, the mask and the model's own fields but the draw counter are as
before. What stands beside them, the image, is `ImageKept`'s. -/
structure ControlsKept (s t : State) : Prop where
  hx : t.hx = s.hx
  hy : t.hy = s.hy
  worldValid : t.worldValid = s.worldValid
  shortMask : t.shortMask = s.shortMask
  statusWritten : t.statusWritten = s.statusWritten
  agenda : t.agenda = s.agenda
  reply : t.reply = s.reply

theorem visitLoop_controlsKept (top : Pc) (f : Frame) (s : State) : ControlsKept s (visitLoop top f s) := by
  rw [visitLoop_frame]
  exact ⟨rfl, rfl, rfl, rfl, rfl, rfl, rfl⟩

/-- 10_state.md sections 2, 4 and 5: no instruction writes any of them. -/
theorem Effect.controlsKept {s t : State} {i : Instr} (he : Effect s i t) : ControlsKept s t := by
  cases he with
  | visits top _ f => exact visitLoop_controlsKept top f s
  | opens top count u _ _ hu =>
    obtain ⟨hhx, hhy, hworld, hmask, hwritten, hagenda, hreply⟩ :=
      visitLoop_controlsKept top ⟨u.pc, count⟩ (pushRepeat ⟨u.pc, count⟩ u)
    rcases hu with rfl | rfl <;> exact ⟨hhx, hhy, hworld, hmask, hwritten, hagenda, hreply⟩
  | calls _ _ hu => rcases hu with rfl | rfl <;> exact ⟨rfl, rfl, rfl, rfl, rfl, rfl, rfl⟩
  | ends | growthFails | notFlagcount | repeatZero | offGrid | moves | turns | takes | adds | jumps | fallsThrough
  | returns => exact ⟨rfl, rfl, rfl, rfl, rfl, rfl, rfl⟩

theorem interpreterTurn_controlsKept {s t : State} (h : interpreterTurn s = .next t) : ControlsKept s t := by
  obtain ⟨-, -, ⟨c, -, rfl⟩ | ⟨i, -, he⟩⟩ := interpreterTurn_next h
  · exact ⟨rfl, rfl, rfl, rfl, rfl, rfl, rfl⟩
  · exact (exec_effect he).controlsKept

/-! ## The world -/

/-- A flag count is not the wall marker (00_scope.md R5). -/
theorem ne_wall_of_le_maxFlags {v : Nibble} (h : v.toNat ≤ Config.maxFlags) : v ≠ Config.wall := by
  rintro rfl
  exact absurd h (by decide)

/-- The robot stands where it stood and the grid is as it was. -/
def StaysPut (s t : State) : Prop := t.px = s.px ∧ t.py = s.py ∧ t.grid = s.grid

/-- The robot has moved to a cell of the grid that is no wall. -/
def MovesToFreeCell (s t : State) : Prop :=
  t.grid = s.grid ∧ InGrid t.px.toNat t.py.toNat ∧ cellValue s.grid t.px.toNat t.py.toNat ≠ Config.wall

/-- The robot's cell held a flag count and holds another. -/
def WritesFlagCount (s t : State) : Prop :=
  t.px = s.px ∧ t.py = s.py ∧ InGrid s.px.toNat s.py.toNat ∧
    (cellValue s.grid s.px.toNat s.py.toNat).toNat ≤ Config.maxFlags ∧
    ∃ v : Nibble, v.toNat ≤ Config.maxFlags ∧ t.grid = setCellValue s.grid s.px.toNat s.py.toNat v

/-- 10_state.md R24, R25: all an instruction can do to the robot's place and the grid. -/
theorem Effect.world_cases {s t : State} {i : Instr} (he : Effect s i t) :
    StaysPut s t ∨ MovesToFreeCell s t ∨ WritesFlagCount s t := by
  cases he with
  | moves x y _ hin hfree => exact .inr (.inl ⟨rfl, hin, hfree⟩)
  | takes h hin hh h0 hm =>
    have hsub : (h - 1).toNat ≤ Config.maxFlags := by have := nibble_sub_one h0; omega
    exact .inr (.inr ⟨rfl, rfl, hin, hh ▸ hm, h - 1, hsub, rfl⟩)
  | adds h hin hh hm =>
    have hadd : (h + 1).toNat ≤ Config.maxFlags := by rw [nibble_add_one hm]; omega
    exact .inr (.inr ⟨rfl, rfl, hin, hh ▸ hm.le, h + 1, hadd, rfl⟩)
  | calls _ _ hu | opens _ _ _ _ _ hu => rcases hu with rfl | rfl <;> exact .inl (by simp [StaysPut])
  | ends | growthFails | notFlagcount | repeatZero | offGrid | turns | jumps | fallsThrough | returns | visits =>
    exact .inl (by simp [StaysPut])

/-! ## The end of the run -/

/-- The run goes on, or not, as it did, and nothing is published. -/
def GoesOn (s t : State) : Prop := t.busy = s.busy ∧ t.status = s.status

/-- The run has ended with one of the six terminal statuses, which changes nothing of `pc` and `fault`. -/
def EndsTheRun (s t : State) : Prop :=
  t.busy = false ∧ statusTerminal t.status ∧ t.pc = s.pc ∧ t.fault = s.fault

theorem Effect.goesOn_or_endsTheRun {s t : State} {i : Instr} (he : Effect s i t) : GoesOn s t ∨ EndsTheRun s t := by
  cases he with
  | ends _ code hcode => exact .inr ⟨rfl, ⟨code, hcode, rfl⟩, rfl, rfl⟩
  | growthFails => exact .inr ⟨rfl, ⟨.unknownError, by decide, rfl⟩, rfl, rfl⟩
  | calls _ _ hu | opens _ _ _ _ _ hu => rcases hu with rfl | rfl <;> exact .inl (by simp [GoesOn])
  | notFlagcount | repeatZero | offGrid | moves | turns | takes | adds | jumps | fallsThrough | returns | visits =>
    exact .inl (by simp [GoesOn])

theorem interpreterTurn_goesOn_or_endsTheRun {s t : State} (h : interpreterTurn s = .next t) :
    GoesOn s t ∨ EndsTheRun s t := by
  obtain ⟨-, -, ⟨c, -, rfl⟩ | ⟨i, -, he⟩⟩ := interpreterTurn_next h
  · exact .inl ⟨rfl, rfl⟩
  · exact (exec_effect he).goesOn_or_endsTheRun

theorem interpreterTurn_of_idle {s : State} (hf : s.fault = none) (hb : s.busy = false) :
    interpreterTurn s = .fault .idle := by
  simp [interpreterTurn, hf, hb]

/-! ## Grid accesses off the grid -/

section
variable {s : State} {c : Cause} {x y : Word}

/-- 41_robot_primitives.md R122, 20_memory.md R58. -/
theorem exec_step_of_error (hp : previewStep s = some (x, y)) (hc : gridGet s.grid x.toNat y.toNat = .error c) :
    exec .step s = .next (raiseFault c s) := by
  simp only [exec, execStep, cellAt, hp, hc]

/-- 42_control_transfer.md R142, 20_memory.md R58. -/
theorem wallAhead_of_error (hp : previewStep s = some (x, y)) (hc : gridGet s.grid x.toNat y.toNat = .error c) :
    wallAhead s = .error c := by
  simp only [wallAhead, cellAt, hp, hc]

/-- 42_control_transfer.md R143: a condition that faults. -/
theorem exec_branch_of_error {cond : Cond} (inv : Bool) (target : Pc) (h : rawCond cond s = .error c) :
    exec (.branch cond inv target) s = .next (raiseFault c s) := by
  simp only [exec, execBranch, condTrue, h]

variable (hc : gridGet s.grid s.px.toNat s.py.toNat = .error c)
include hc

theorem exec_pickUp_of_error : exec .pickUp s = .next (raiseFault c s) := by
  simp only [exec, execPickUp, here, cellAt, hc]

theorem exec_place_of_error : exec .place s = .next (raiseFault c s) := by
  simp only [exec, execPlace, here, cellAt, hc]

theorem flagHere_of_error : flagHere s = .error c := by
  simp only [flagHere, here, cellAt, hc]

end

/-! ## The machine's turn -/

theorem step_of_agenda_nil {s : State} (h : s.agenda = []) : step s = interpreterTurn s := by
  simp only [step, takeTurn, h]

theorem step_of_interpreter_first {s : State} {rest : List Turn} (h : s.agenda = .interpreter :: rest) :
    step s = interpreterTurn { s with agenda := rest } := by
  simp only [step, takeTurn, h, popAgenda, List.tail_cons]

section
variable {s : State} {op : HostOp} {rest : List Turn} (h : s.agenda = .host op :: rest)
include h

/-- 44_host_operations.md R170: an enabled operation is one move. -/
theorem step_of_hostEnabled (he : hostEnabled op s = true) : step s = .next (hostMove op { s with agenda := rest }) := by
  simp only [step, takeTurn, h, he, if_true, popAgenda, List.tail_cons]

/-- 44_host_operations.md R170: an operation that is not enabled waits. -/
theorem step_of_not_hostEnabled (he : hostEnabled op s = false) : step s = interpreterTurn s := by
  simp only [step, takeTurn, h, he, Bool.false_eq_true, if_false]

end

/-! ## The mask -/

/-- 40_fetch_dispatch.md R102. -/
theorem fetchAddress_of_unmasked {s : State} (h : s.shortMask = 1) : fetchAddress s = s.pc := by
  simp [fetchAddress, h]

/-- 40_fetch_dispatch.md R102. -/
theorem fetchAddress_of_masked {s : State} (h : s.shortMask = 0) : fetchAddress s = 0 := by
  simp [fetchAddress, h]

/-- 44_host_operations.md R171: an image begins with a RETN. -/
theorem decodeAt_zero {s : State} (h : ImageLegal s) : decodeAt s 0 = .ok .retn := by
  obtain ⟨hlen, hread⟩ := h
  have ht : tagOf (headTag (s.image.read 0)) = some .retn := by
    rw [hread]
    decide
  refine decodeAt_eq_term hlen ht hlen ?_
  rw [hread]
  decide

/-- 40_fetch_dispatch.md R107: with the mask at 0 the step of a run executes RETN. -/
theorem interpreterTurn_of_masked {s : State} (hi : ImageLegal s) (hb : s.busy = true) (hf : s.fault = none)
    (hm : s.shortMask = 0) : interpreterTurn s = exec .retn s := by
  refine interpreterTurn_of_decodeAt_ok hb hf ?_
  rw [fetchAddress_of_masked hm]
  exact decodeAt_zero hi

end Sys2Proof.Machine
end

section
/-! The statements about all instructions at once and about single steps (10_state.md sections 2 to 6,
40_fetch_dispatch.md). -/
namespace Sys2Proof.Proofs
open Sys2Proof.Machine Sys2Proof.Safety

/-- Settles O17: the two differ at no cell ahead, at a wall, at a free cell or off the grid. -/
theorem wallAheadIsAFailingStep : Obligations.WallAheadIsAFailingStep := by
  refine fun s => ⟨wallAhead_of_edge, fun _ _ _ => wallAhead_of_cell, fun hb => ?_⟩
  have goes_on {t : State} (hexec : exec .step s = .next t) (ht : t.busy = true) :
      exec .step s ≠ .next { s with status := 8, busy := false } := by
    rw [hexec]
    rintro ⟨rfl⟩
    cases ht
  cases hp : previewStep s with
  | none => exact iff_of_true (wallAhead_of_edge hp) (exec_step_of_edge hp)
  | some cell =>
    obtain ⟨x, y⟩ := cell
    cases hv : gridGet s.grid x.toNat y.toNat with
    | error c =>
      exact iff_of_false (by simp [wallAhead_of_error hp hv]) (goes_on (exec_step_of_error hp hv) hb)
    | ok v =>
      rw [wallAhead_of_cell hp hv]
      by_cases hw : v = Config.wall
      · exact iff_of_true (by simp [hw, Config.wall]) (exec_step_of_wall hp hv hw)
      · have hn : v.toNat ≠ 15 := fun e => hw (BitVec.eq_of_toNat_eq e)
        exact iff_of_false (by simp [hn]) (goes_on (exec_step_of_free hp hv hw) hb)

/-- Settles O28: with the mask at 0 the fetch address is 0, where an image holds a RETN, which never faults. -/
theorem maskedFetchExecutesRetn : Obligations.MaskedFetchExecutesRetn := by
  refine ⟨fun s hs hb => hs.image (hs.running hb).1, fun s hi hb hf hm => ?_⟩
  have hturn : interpreterTurn s = exec .retn s := interpreterTurn_of_masked hi hb hf hm
  refine ⟨hturn, fun t ht => ?_⟩
  rcases execRetn_cases s with ⟨-, e⟩ | ⟨ret, rest, -, e⟩
  all_goals
    rw [hturn, exec, e] at ht
    cases ht
    exact ⟨hm, hi, hf⟩

/-- Settles O30: an instruction goes on or ends the run, and after its end the interpreter's turn finds no run. -/
theorem runPublishesAtMostOneStatus : Obligations.RunPublishesAtMostOneStatus := by
  intro s t ha hb hstep
  rw [step_of_agenda_nil ha] at hstep
  rcases interpreterTurn_goesOn_or_endsTheRun hstep with ⟨hbusy, hstatus⟩ | ⟨hbusy, hterm, -, hfault⟩
  · exact .inl ⟨hbusy.trans hb, hstatus, by simp [hostRunResult, hbusy, hb]⟩
  · have hkept := interpreterTurn_controlsKept hstep
    obtain ⟨hf, -, -⟩ := interpreterTurn_next hstep
    refine .inr ⟨hbusy, hterm, fun hw => ?_, ?_⟩
    · simp [hostRunResult, hbusy, hkept.statusWritten, hw]
    · rw [step_of_agenda_nil (hkept.agenda.trans ha), interpreterTurn_of_idle (hfault.trans hf) hbusy]

/-- Settles O31: by the effects of each instruction; those that end the run keep `pc`. -/
theorem programCounterUpdates : Obligations.ProgramCounterUpdates := by
  intro s t i hb hf he
  refine ⟨fun hbt => ?_, fun hft hbt => ?_⟩
  · rcases (exec_effect he).goesOn_or_endsTheRun with ⟨hbusy, -⟩ | ⟨-, -, hpc, -⟩
    · simp [hbusy, hb] at hbt
    · exact hpc
  · cases exec_effect he with
    | ends | growthFails => simp at hbt
    | notFlagcount | repeatZero | offGrid => simp at hft
    | moves | turns | takes | adds => rfl
    | jumps => exact .inl rfl
    | fallsThrough => exact .inr rfl
    | calls _ u hu => rcases hu with rfl | rfl <;> exact ⟨rfl, rfl⟩
    | returns ret rest hcalls => exact ⟨rest, hcalls⟩
    | visits top _ f => exact visitLoop_pc top f s
    | opens top count u _ _ hu =>
      have hvisit := visitLoop_pc top ⟨u.pc, count⟩ (pushRepeat ⟨u.pc, count⟩ u)
      rcases hu with rfl | rfl <;> exact hvisit

/-- Settles O32: each named register is one that every effect keeps. -/
theorem noInstructionWritesImageHomeOrControls : Obligations.NoInstructionWritesImageHomeOrControls := by
  intro s t i he
  obtain ⟨himage, hlen, hvalid⟩ := (exec_effect he).imageKept
  have hkept : ControlsKept s t := (exec_effect he).controlsKept
  exact ⟨himage, hlen, hkept.hx, hkept.hy, hvalid, hkept.worldValid, hkept.shortMask, hkept.statusWritten,
    hkept.agenda, hkept.reply⟩

/-- Settles O33: by the effects; each is a named update, which writes the registers its lemmas say. -/
theorem onlyTheNamedInstructionsWriteEachRegister : Obligations.OnlyTheNamedInstructionsWriteEachRegister := by
  intro s t i he
  cases exec_effect he with
  | growthFails _ hopen => rcases hopen with ⟨_, rfl⟩ | ⟨_, _, rfl⟩ <;> simp
  | calls _ _ hu | opens _ _ _ _ _ hu => rcases hu with rfl | rfl <;> simp
  | ends | notFlagcount | repeatZero | offGrid | moves | turns | takes | adds | jumps | fallsThrough | returns
  | visits => simp

/-- Settles O34: the one cell an instruction writes held a flag count and holds one. -/
theorem wallsAreNeverCreatedOrRemoved : Obligations.WallsAreNeverCreatedOrRemoved := by
  intro s t i x y hg he
  rcases (exec_effect he).world_cases with ⟨-, -, hgrid⟩ | ⟨hgrid, -⟩ | ⟨-, -, hin, hold, v, hnew, hgrid⟩
  · rw [hgrid]
  · rw [hgrid]
  · rw [hgrid, gridGet_setCellValue hg hin]
    split
    · next hxy =>
      obtain ⟨rfl, rfl⟩ := hxy
      rw [gridGet_of_inGrid _ hin]
      exact iff_of_false (fun e => ne_wall_of_le_maxFlags hnew (Except.ok.inj e))
        (fun e => ne_wall_of_le_maxFlags hold (Except.ok.inj e))
    · rfl

/-- Settles O36: the interpreter leaves the mask, and of the host's operations three write it. -/
theorem onlyTheHostWritesTheMask : Obligations.OnlyTheHostWritesTheMask := by
  intro s t hstep
  rcases step_next hstep with ⟨u, hu, hturn⟩ | ⟨op, rest, hagenda, henabled, rfl⟩
  · have hmask : u.shortMask = s.shortMask := by rcases hu with rfl | rfl <;> rfl
    exact .inl ((interpreterTurn_controlsKept hturn).shortMask.trans hmask)
  rcases hostMove_cases op (popAgenda s) with ⟨rfl, e⟩ | ⟨_, -, -, e⟩ | ⟨_, _, -, -, -, e⟩ | ⟨entry, rfl, -, -, e⟩ |
    ⟨rfl, e⟩ | ⟨u, _, hu, e⟩ | ⟨_, -, -, e⟩ <;> rw [e]
  · exact .inr (.inr (.inl ⟨rfl, rest, hagenda⟩))
  · exact .inl rfl
  · exact .inl rfl
  · obtain ⟨hidle, -⟩ := (hostEnabled_iff.1 henabled).resolve_left (by simp)
    exact .inr (.inr (.inr ⟨rfl, hidle, rfl, entry, rest, hagenda⟩))
  · exact .inr (.inl ⟨rfl, rest, hagenda⟩)
  · rcases hu with rfl | rfl <;> exact .inl rfl
  · exact .inl rfl

/-- Settles O9: each instruction hands on the fault its grid access raises. -/
theorem outOfGridAccessRecordsTheFault : Obligations.OutOfGridAccessRecordsTheFault :=
  fun _ => ⟨fun _ _ hp hc => ⟨exec_step_of_error hp hc,
      fun inv target => exec_branch_of_error inv target (wallAhead_of_error hp hc)⟩,
    fun hc => ⟨exec_pickUp_of_error hc, exec_place_of_error hc,
      fun inv target => exec_branch_of_error inv target (flagHere_of_error hc)⟩⟩

/-- Settles O19: the two tests of an opening, the depth first. -/
theorem frameOpeningMayFailOnlyPastFastDepth : Obligations.FrameOpeningMayFailOnlyPastFastDepth :=
  fun _ andThen => ⟨openFrame_of_depth_lt andThen, fun h => if_neg (Nat.not_lt.2 h)⟩

/-- Settles O25: whoever stands first on the agenda, the interpreter's turn executes what the fetch address decodes
to. -/
theorem stepRunsTheDecodedInstruction : Obligations.StepRunsTheDecodedInstruction := by
  refine ⟨fun s => ⟨fetchAddress_of_unmasked, fetchAddress_of_masked⟩, fun s i hb hf hd => ?_⟩
  have hturn : interpreterTurn s = exec i s := interpreterTurn_of_decodeAt_ok hb hf hd
  refine ⟨hturn, fun ha => (step_of_agenda_nil ha).trans hturn, fun rest ha => ?_, fun op rest ha h1 h2 h3 => ?_⟩
  · rw [step_of_interpreter_first ha]
    exact interpreterTurn_of_decodeAt_ok (s := { s with agenda := rest }) hb hf hd
  · have hwaits : hostEnabled op s = false := by
      rw [Bool.eq_false_iff, ne_eq, hostEnabled_iff]
      simp [h1, h2, h3, hb]
    exact (step_of_not_hostEnabled ha hwaits).trans hturn

/-- Settles O44: reset is enabled in every state, and its values are those of `State.reset`. -/
theorem resetLeavesTheStatedValues : Obligations.ResetLeavesTheStatedValues :=
  ⟨⟨rfl, rfl, rfl, rfl, rfl⟩, fun _ _ ha => ⟨_, step_of_hostEnabled ha rfl, rfl, rfl, rfl, rfl, rfl⟩⟩

/-- Settles O45: by the enabling condition; of a host operation's results only a refusal records a fault. -/
theorem hostOperationsAreEnabledOrHaveNoMove : Obligations.HostOperationsAreEnabledOrHaveNoMove := by
  refine ⟨fun s op => ⟨fun hop => hostEnabled_iff.2 (.inl hop), fun h1 h2 h3 => ?_⟩,
    fun s op rest ha => ⟨step_of_hostEnabled ha, step_of_not_hostEnabled ha⟩, fun s op hf hfault => ?_⟩
  · rw [hostEnabled_iff]
    simp [h1, h2, h3]
  · rcases hostMove_cases op s with ⟨-, e⟩ | ⟨_, -, -, e⟩ | ⟨_, _, -, -, -, e⟩ | ⟨_, -, -, -, e⟩ | ⟨-, e⟩ |
      ⟨u, _, hu, e⟩ | ⟨c, hc, -, e⟩
    · exact absurd (by rw [e]; rfl) hfault
    · exact absurd (by simp [e, hf]) hfault
    · exact absurd (by simp [e, hf]) hfault
    · exact absurd (by simp [e, hf]) hfault
    · exact absurd (by simp [e, hf]) hfault
    · exact absurd (by rcases hu with rfl | rfl <;> simp [e, hf]) hfault
    · exact ⟨c, hc, e⟩

end Sys2Proof.Proofs
end

section
/-! The repeat frames: what opening, visiting and closing a loop leave open (43_repeat.md R161 to R163), and the
invariants that speak of open frames. -/
namespace Sys2Proof.Machine
open Sys2Proof.Safety

/-! ## The open repeat frames -/

/-- The open repeat frames, the current one first (10_state.md R35, R36). -/
def repeatFrames (s : State) : List Frame := s.curRepeat.toList ++ s.repeatStack

theorem openFrames_eq (s : State) : openFrames s = s.callStack.length + (repeatFrames s).length := by
  simp only [openFrames, repeatFrames, List.length_append]
  omega

theorem repeatFrames_of_current {s : State} {f : Frame} (h : s.curRepeat = some f) :
    repeatFrames s = f :: s.repeatStack := by
  simp [repeatFrames, h]

@[simp] theorem repeatFrames_pushRepeat (f : Frame) (s : State) :
    repeatFrames (pushRepeat f s) = f :: repeatFrames s := rfl

theorem repeatFrames_popRepeat (s : State) : repeatFrames (popRepeat s) = s.repeatStack := by
  cases h : s.repeatStack <;> simp [repeatFrames, h]

/-- 10_state.md R35, R36: with no current frame there is no outer one, so the frames are what their list says. -/
theorem head?_tail_repeatFrames {s : State} (h : NestingLegal s) :
    (repeatFrames s).head? = s.curRepeat ∧ (repeatFrames s).tail = s.repeatStack := by
  cases hc : s.curRepeat with
  | none => simp [repeatFrames, hc, h hc]
  | some f => simp [repeatFrames, hc]

/-- 43_repeat.md R162: a visit closes the innermost loop, or takes one iteration off its frame. -/
theorem visitLoop_repeatFrames (top : Pc) (f : Frame) (s : State) :
    (f.remaining = 1 ∧ repeatFrames (visitLoop top f s) = s.repeatStack ∧
      (visitLoop top f s).depth = s.depth - 1) ∨
    (f.remaining ≠ 1 ∧ repeatFrames (visitLoop top f s) = ⟨f.origin, f.remaining - 1⟩ :: s.repeatStack ∧
      (visitLoop top f s).depth = s.depth) := by
  rcases visitLoop_cases top f s with ⟨hlast, e⟩ | ⟨hmore, e⟩ <;> rw [e]
  · exact .inl ⟨hlast, repeatFrames_popRepeat s, rfl⟩
  · exact .inr ⟨hmore, rfl, rfl⟩

/-- 10_state.md R35, R36: after a visit no outer loop is open without a current one. -/
theorem visitLoop_nestingLegal (top : Pc) (f : Frame) (s : State) : NestingLegal (visitLoop top f s) := by
  rcases visitLoop_cases top f s with ⟨-, e⟩ | ⟨-, e⟩ <;> rw [e] <;> intro hnone
  · have hempty : s.repeatStack = [] := List.head?_eq_none_iff.1 hnone
    simp [hempty]
  · cases hnone

/-! ## Depth -/

/-- 10_state.md R41: the depth is the number of open frames. -/
def DepthLegal (s : State) : Prop := s.depth = openFrames s

/-- A visit of the innermost loop keeps R41's equation. -/
theorem visitLoop_depthLegal (top : Pc) {f g : Frame} {s : State} (hg : s.curRepeat = some g) (hs : DepthLegal s) :
    DepthLegal (visitLoop top f s) := by
  simp only [DepthLegal, openFrames_eq, repeatFrames_of_current hg, List.length_cons, visitLoop_callStack] at *
  rcases visitLoop_repeatFrames top f s with ⟨-, hframes, hdepth⟩ | ⟨-, hframes, hdepth⟩
  · rw [hframes, hdepth]
    omega
  · rw [hframes, hdepth, List.length_cons]
    omega

theorem pushRepeat_depthLegal (f : Frame) {s : State} (hs : DepthLegal s) : DepthLegal (pushRepeat f s) := by
  simp only [DepthLegal, openFrames_eq, repeatFrames_pushRepeat, List.length_cons, pushRepeat_depth,
    pushRepeat_callStack] at *
  omega

/-- 10_state.md R41: every instruction keeps the equation. -/
theorem Effect.depthLegal {s t : State} {i : Instr} (he : Effect s i t) (hs : DepthLegal s) : DepthLegal t := by
  cases he with
  | calls _ u hu =>
    have hdepth : u.depth = openFrames u := by rcases hu with rfl | rfl <;> exact hs
    simp only [DepthLegal, openFrames, jump_depth, pushCall_depth, jump_callStack, pushCall_callStack, jump_repeatStack,
      pushCall_repeatStack, jump_curRepeat, pushCall_curRepeat, List.length_cons] at *
    omega
  | returns ret rest hcalls =>
    simp only [DepthLegal, openFrames, hcalls, jump_depth, popCall_depth, jump_callStack, popCall_callStack,
      jump_repeatStack, popCall_repeatStack, jump_curRepeat, popCall_curRepeat, List.length_cons, List.tail_cons] at *
    omega
  | visits top _ f hf => exact visitLoop_depthLegal top hf hs
  | opens top count u _ _ hu =>
    have hdepth : DepthLegal u := by rcases hu with rfl | rfl <;> exact hs
    exact visitLoop_depthLegal top rfl (pushRepeat_depthLegal _ hdepth)
  | ends | growthFails | notFlagcount | repeatZero | offGrid | moves | turns | takes | adds | jumps | fallsThrough =>
    exact hs

/-! ## The frames an instruction leaves open -/

/-- The current instruction is a REPEAT, and the frame is its own with one iteration taken off `r`: the count of a first
visit, or what a continuing visit found left (43_repeat.md R162). -/
def VisitedFrame (s : State) (i : Instr) (g : Frame) : Prop :=
  ∃ top count r, i = .repeatLoop top count ∧ g = ⟨s.pc, r - 1⟩ ∧ r ≠ 1 ∧
    (r = count ∧ count ≠ 0 ∨ ⟨s.pc, r⟩ ∈ repeatFrames s)

/-- Every open repeat frame was open before, or is the one the current REPEAT has visited. -/
theorem Effect.mem_repeatFrames {s t : State} {i : Instr} (he : Effect s i t) {g : Frame} (hg : g ∈ repeatFrames t) :
    g ∈ repeatFrames s ∨ VisitedFrame s i g := by
  cases he with
  | visits top count f hf ho =>
    obtain ⟨origin, r⟩ := f
    subst ho
    rw [repeatFrames_of_current hf]
    rcases visitLoop_repeatFrames top ⟨s.pc, r⟩ s with ⟨-, hframes, -⟩ | ⟨hmore, hframes, -⟩ <;> rw [hframes] at hg
    · exact .inl (List.mem_cons_of_mem _ hg)
    · rcases List.mem_cons.1 hg with rfl | hg
      · exact .inr ⟨top, count, r, rfl, rfl, hmore, .inr (by simp [repeatFrames_of_current hf])⟩
      · exact .inl (List.mem_cons_of_mem _ hg)
  | opens top count u _ hc hu =>
    have hpc : u.pc = s.pc := by rcases hu with rfl | rfl <;> rfl
    have houter : (pushRepeat ⟨u.pc, count⟩ u).repeatStack = repeatFrames s := by rcases hu with rfl | rfl <;> rfl
    rcases visitLoop_repeatFrames top ⟨u.pc, count⟩ (pushRepeat ⟨u.pc, count⟩ u) with
      ⟨-, hframes, -⟩ | ⟨hmore, hframes, -⟩ <;> rw [hframes, houter] at hg
    · exact .inl hg
    · rcases List.mem_cons.1 hg with rfl | hg
      · exact .inr ⟨top, count, count, rfl, by rw [hpc], hmore, .inl ⟨rfl, hc⟩⟩
      · exact .inl hg
  | calls _ u hu => rcases hu with rfl | rfl <;> exact .inl hg
  | ends | growthFails | notFlagcount | repeatZero | offGrid | moves | turns | takes | adds | jumps | fallsThrough
  | returns => exact .inl hg

/-- 43_repeat.md R162, R166: an iteration taken off a count other than 1 does not leave 0. -/
theorem count_sub_one_ne_zero {r : Count} (h1 : r ≠ 1) : r - 1 ≠ 0 := by
  intro h
  exact h1 (by bv_omega)

/-- 43_repeat.md R166: every instruction keeps the remaining counts positive. -/
theorem Effect.framesLegal {s t : State} {i : Instr} (he : Effect s i t) (hs : FramesLegal s) : FramesLegal t := by
  intro g hg
  rcases he.mem_repeatFrames hg with hold | ⟨_, _, r, -, rfl, hmore, -⟩
  · exact hs g hold
  · exact count_sub_one_ne_zero hmore

/-- 10_state.md R35, R36: every instruction keeps the nesting of loops. -/
theorem Effect.nestingLegal {s t : State} {i : Instr} (he : Effect s i t) (hs : NestingLegal s) : NestingLegal t := by
  cases he with
  | visits top _ f => exact visitLoop_nestingLegal top f s
  | opens top count u => exact visitLoop_nestingLegal top _ _
  | calls _ u hu => rcases hu with rfl | rfl <;> exact hs
  | ends | growthFails | notFlagcount | repeatZero | offGrid | moves | turns | takes | adds | jumps | fallsThrough
  | returns => exact hs

/-! ## Going round a loop -/

/-- A visit of the REPEAT at the `pc` of `s` has gone round with `left` iterations to come, above the frames open in
`s`. -/
structure GoneRound (s : State) (top : Pc) (left : Nat) (t : State) : Prop where
  pc : t.pc = top
  current : t.curRepeat = some ⟨s.pc, BitVec.ofNat 16 left⟩
  outer : t.repeatStack = repeatFrames s
  depth : t.depth = s.depth + 1

/-- The REPEAT at the `pc` of `s` has been left, the repeat state as in `s`. -/
structure LeftLoop (s t : State) : Prop where
  pc : t.pc = s.pc + 7
  current : t.curRepeat = s.curRepeat
  outer : t.repeatStack = s.repeatStack
  depth : t.depth = s.depth

theorem repeatVisit_of_exec {top : Pc} {count : Count} {s t : State} (h : exec (.repeatLoop top count) s = .next t) :
    repeatVisit top count s = t := by
  simp only [repeatVisit, h]

section
variable {s : State} (top : Pc) {count : Count} (hdepth : s.depth < Config.fastDepth)
  (hfirst : ∀ f, s.curRepeat = some f → f.origin ≠ s.pc)
include hdepth hfirst

/-- 43_repeat.md R162: the first visit below `FAST_DEPTH` opens the frame and visits at once. -/
theorem repeatVisit_of_first (hc : count ≠ 0) :
    repeatVisit top count s = visitLoop top ⟨s.pc, count⟩ (pushRepeat ⟨s.pc, count⟩ s) := by
  apply repeatVisit_of_exec
  rw [exec_repeatLoop_opens hfirst top hc, openFrame_of_depth_lt _ hdepth]

theorem repeatVisit_first_goneRound (hc : 1 < count.toNat) :
    GoneRound s top (count.toNat - 1) (repeatVisit top count s) := by
  have h0 : count ≠ 0 := by
    rintro rfl
    simp at hc
  have h1 : count ≠ 1 := by
    rintro rfl
    simp at hc
  have hleft : count - 1 = BitVec.ofNat 16 (count.toNat - 1) := by bv_omega
  rw [repeatVisit_of_first top hdepth hfirst h0, visitLoop_of_more top h1, hleft]
  exact ⟨rfl, rfl, rfl, rfl⟩

theorem repeatVisit_first_leftLoop (hn : NestingLegal s) : LeftLoop s (repeatVisit top 1 s) := by
  obtain ⟨hhead, htail⟩ := head?_tail_repeatFrames hn
  rw [repeatVisit_of_first top hdepth hfirst (by decide), visitLoop_of_last top rfl]
  exact ⟨rfl, hhead, htail, rfl⟩

end

section
variable {s t : State} {top : Pc} (count : Count) {left : Nat} {body : State → State} (hbody : BodyReturnsTo s.pc body)
  (ht : GoneRound s top left t)
include hbody ht

/-- 43_repeat.md R161: back at the REPEAT the frame is its own, so the visit continues the loop. -/
theorem repeatVisit_of_goneRound :
    repeatVisit top count (body t) = visitLoop top ⟨s.pc, BitVec.ofNat 16 left⟩ (body t) := by
  obtain ⟨hpc, hcur, -, -⟩ := hbody t
  exact repeatVisit_of_exec (exec_repeatLoop_of_current top count (hcur.trans ht.current) hpc.symm)

theorem repeatVisit_goneRound (h1 : 1 < left) (hlt : left < 2 ^ 16) :
    GoneRound s top (left - 1) (repeatVisit top count (body t)) := by
  obtain ⟨-, -, houter, hdepth⟩ := hbody t
  have hmore : BitVec.ofNat 16 left ≠ 1 := by bv_omega
  have hleft : BitVec.ofNat 16 left - 1 = BitVec.ofNat 16 (left - 1) := by bv_omega
  rw [repeatVisit_of_goneRound count hbody ht, visitLoop_of_more top hmore, hleft]
  exact ⟨rfl, rfl, houter.trans ht.outer, hdepth.trans ht.depth⟩

theorem repeatVisit_leftLoop (h1 : left = 1) (hn : NestingLegal s) : LeftLoop s (repeatVisit top count (body t)) := by
  obtain ⟨hpc, -, houter, hdepth⟩ := hbody t
  obtain ⟨hhead, htail⟩ := head?_tail_repeatFrames hn
  have hlast : BitVec.ofNat 16 left = 1 := by rw [h1]; rfl
  rw [repeatVisit_of_goneRound count hbody ht, visitLoop_of_last top hlast]
  refine ⟨?_, ?_, ?_, ?_⟩
  · rw [advance_pc, popRepeat_pc, hpc]
    rfl
  · rw [advance_curRepeat, popRepeat_curRepeat, houter, ht.outer, hhead]
  · rw [advance_repeatStack, popRepeat_repeatStack, houter, ht.outer, htail]
  · rw [advance_depth, popRepeat_depth, hdepth, ht.depth, Nat.add_sub_cancel]

end

/-- 43_repeat.md R163: visit `k + 1` of a loop with a larger count goes round. -/
theorem loopArrival_goneRound {s : State} (top : Pc) {count : Count} {body : State → State}
    (hbody : BodyReturnsTo s.pc body) (hdepth : s.depth < Config.fastDepth)
    (hfirst : ∀ f, s.curRepeat = some f → f.origin ≠ s.pc) {k : Nat} (hk : k + 1 < count.toNat) :
    GoneRound s top (count.toNat - (k + 1)) (repeatVisit top count (loopArrival body top count k s)) := by
  induction k with
  | zero => exact repeatVisit_first_goneRound top hdepth hfirst hk
  | succ k ih =>
    have hcount : count.toNat < 2 ^ 16 := count.isLt
    have hnext := repeatVisit_goneRound count hbody (ih (by omega)) (by omega) (by omega)
    rwa [Nat.sub_sub] at hnext

end Sys2Proof.Machine
end

section
/-! The statements about loops and open frames (43_repeat.md, 10_state.md section 9). -/
namespace Sys2Proof.Proofs
open Sys2Proof.Machine Sys2Proof.Safety

/-- Settles O24: by induction on the visits; the last finds one iteration left and brings the outer frames back. -/
theorem repeatRunsItsBodyCountTimes : Obligations.RepeatRunsItsBodyCountTimes := by
  intro s top count body hbody hc hdepth hfirst hn
  refine ⟨fun k hk => ?_, ?_⟩
  · have hround := loopArrival_goneRound top hbody hdepth hfirst hk
    exact ⟨hround.pc, hround.current⟩
  · have hpos : count.toNat ≠ 0 := fun e => hc (BitVec.eq_of_toNat_eq e)
    have hleft : LeftLoop s (repeatVisit top count (loopArrival body top count (count.toNat - 1) s)) := by
      rcases Nat.exists_eq_add_one_of_ne_zero hpos with ⟨n, hcount⟩
      rw [hcount, Nat.add_sub_cancel]
      cases n with
      | zero =>
        have hone : count = 1 := BitVec.eq_of_toNat_eq hcount
        rw [hone]
        exact repeatVisit_first_leftLoop top hdepth hfirst hn
      | succ n =>
        have hround := loopArrival_goneRound top hbody hdepth hfirst (count := count) (k := n) (by omega)
        exact repeatVisit_leftLoop (body := body) count hbody hround (by omega) hn
    exact ⟨hleft.pc, hleft.current, hleft.outer, hleft.depth⟩

/-- Settles O39: calls and first visits open a frame and count it, returns and last visits close one. -/
theorem depthCountsTheOpenFrames : Obligations.DepthCountsTheOpenFrames :=
  ⟨fun _ _ => rfl, fun _ _ _ he => (exec_effect he).depthLegal⟩

/-- Settles O40: a frame is left open with one iteration taken off only where there was another than 1. -/
theorem repeatCountsNeverReachZero : Obligations.RepeatCountsNeverReachZero :=
  ⟨fun _ _ _ hf => (List.not_mem_nil hf).elim, fun _ _ _ he => (exec_effect he).framesLegal⟩

end Sys2Proof.Proofs
end

section
/-! The machine's invariant, kept by every move of either agent (10_state.md section 9, 44_host_operations.md R185). -/
namespace Sys2Proof.Machine
open Sys2Proof.Safety

/-! ## The world -/

/-- 10_state.md R40: every instruction keeps the world legal. -/
theorem Effect.worldLegal {s t : State} {i : Instr} (he : Effect s i t) (hg : s.grid.wf) (hs : WorldLegal s) :
    WorldLegal t := by
  obtain ⟨hcells, hrobot⟩ := hs
  rcases he.world_cases with ⟨hx, hy, hgrid⟩ | ⟨hgrid, hin, -⟩ | ⟨hx, hy, hin, -, v, hv, hgrid⟩
  · rw [WorldLegal, hx, hy, hgrid]
    exact ⟨hcells, hrobot⟩
  · rw [WorldLegal, hgrid]
    exact ⟨hcells, hin⟩
  · rw [WorldLegal, hx, hy, hgrid]
    refine ⟨fun x y hxy => ?_, hrobot⟩
    rw [cellValue_setCellValue hg hin hxy]
    split
    · exact .inl hv
    · exact hcells x y hxy

/-- 44_host_operations.md R173, R174: an accepted byte is imported as a legal cell. -/
theorem cellLegal_importCell {b : Byte} (h : b.toNat ≤ Config.maxFlags ∨ b.toNat = 255) : cellLegal (importCell b) := by
  have hvalue := importCell_toNat h
  rcases h with h | h
  · rw [if_neg (by simp only [Config.maxFlags] at h; omega)] at hvalue
    exact .inl (hvalue ▸ h)
  · rw [if_pos h] at hvalue
    exact .inr (BitVec.eq_of_toNat_eq hvalue)

/-- 44_host_operations.md R173: an accepted world is legal. -/
theorem installWorld_worldLegal {cells : CellArray} {r : RobotRecord} {s : State} (hg : s.grid.wf)
    (h : worldAccepted cells r = true) : WorldLegal (installWorld cells r s) := by
  obtain ⟨hbytes, hx, hy, -⟩ := worldAccepted_iff.1 h
  obtain ⟨-, -, hcell⟩ := importCells_spec cells hg
  refine ⟨fun x y hin => ?_, hx, hy⟩
  have hi : x + y * Config.gridSide < Config.cellCount := cellIndex_lt hin
  rw [installWorld_grid, hcell x y hi hin]
  exact cellLegal_importCell (hbytes _ (by simp))

/-! ## Memory -/

/-- 20_memory.md R51, R52: every instruction leaves both spaces canonical and inside their bounds. -/
theorem Effect.memoryLegal {s t : State} {i : Instr} (he : Effect s i t) (hs : MemoryLegal s) : MemoryLegal t := by
  obtain ⟨hgwf, hiwf, hgrid, himage⟩ := hs
  obtain ⟨himg, hlen, -⟩ := he.imageKept
  rw [MemoryLegal, himg, hlen]
  rcases he.world_cases with ⟨-, -, e⟩ | ⟨e, -⟩ | ⟨-, -, hin, -, v, -, e⟩ <;> rw [e]
  · exact ⟨hgwf, hiwf, hgrid, himage⟩
  · exact ⟨hgwf, hiwf, hgrid, himage⟩
  · refine ⟨setCellValue_wf hgwf _ _ _, hiwf, fun c hc => ?_, himage⟩
    rcases Memory.mem_write hc with rfl | hc
    · exact cellAddress_lt hin
    · exact hgrid c hc

end Sys2Proof.Machine

namespace Sys2Proof.Safety
open Sys2Proof.Machine

/-! ## What the invariant says of the status and the grid -/

theorem Legal.status_of_busy {s : State} (hs : Legal s) (hb : s.busy = true) :
    s.statusWritten = true ∧ s.status = Config.statusNumber .inProgress := by
  simpa [StatusLegal, hb] using hs.status

theorem Legal.status_of_idle {s : State} (hs : Legal s) (hb : s.busy = false) (hw : s.statusWritten = true) :
    statusTerminal s.status := by
  have hstatus := hs.status
  rw [StatusLegal, if_neg (by simp [hb])] at hstatus
  exact hstatus hw

theorem Legal.grid_wf {s : State} (hs : Legal s) : s.grid.wf := by
  obtain ⟨hgrid, -⟩ := hs.memory
  exact hgrid

/-! ## The interpreter -/

/-- 10_state.md section 9: every instruction of a run keeps the invariant. -/
theorem exec_legal {s t : State} {i : Instr} (hs : Legal s) (hb : s.busy = true) (h : exec i s = .next t) :
    Legal t := by
  have he : Effect s i t := exec_effect h
  obtain ⟨hbytecode, hworld⟩ := hs.running hb
  obtain ⟨himg, hlen, hbv⟩ := he.imageKept
  have hkept : ControlsKept s t := he.controlsKept
  have hstatus : StatusLegal t := by
    rcases he.goesOn_or_endsTheRun with ⟨hbusy, hst⟩ | ⟨hbusy, hterm, -, -⟩
    · rw [StatusLegal, if_pos (hbusy.trans hb), hkept.statusWritten, hst]
      exact hs.status_of_busy hb
    · rw [StatusLegal, if_neg (by simp [hbusy])]
      exact fun _ => hterm
  exact {
    memory := he.memoryLegal hs.memory
    world := fun _ => he.worldLegal hs.grid_wf (hs.world hworld)
    image := fun _ => by
      rw [ImageLegal, himg, hlen]
      exact hs.image hbytecode
    status := hstatus
    running := fun _ => ⟨hbv.trans hbytecode, hkept.worldValid.trans hworld⟩
    depth := fun _ => he.depthLegal (hs.depth hb)
    frames := fun _ => he.framesLegal (hs.frames hb)
    nesting := fun _ => he.nestingLegal (hs.nesting hb) }

/-- The invariant says nothing of the mask, the fault and the model's own fields but `statusWritten`. -/
theorem Legal.with_controls {s : State} (hs : Legal s) (mask : BitVec 1) (fault : Option Cause) (draws : Nat)
    (agenda : List Turn) (reply : Option HostReply) :
    Legal { s with shortMask := mask, fault := fault, draws := draws, agenda := agenda, reply := reply } := by
  obtain ⟨hmemory, hworld, himage, hstatus, hrunning, hdepth, hframes, hnesting⟩ := hs
  exact ⟨hmemory, hworld, himage, hstatus, hrunning, hdepth, hframes, hnesting⟩

theorem popAgenda_legal {s : State} (hs : Legal s) : Legal (popAgenda s) := hs.with_controls ..

theorem raiseFault_legal {s : State} (hs : Legal s) (c : Cause) : Legal (raiseFault c s) := hs.with_controls ..

theorem interpreterTurn_legal {s t : State} (hs : Legal s) (h : interpreterTurn s = .next t) : Legal t := by
  obtain ⟨-, hb, ⟨c, -, rfl⟩ | ⟨i, -, he⟩⟩ := interpreterTurn_next h
  · exact raiseFault_legal hs c
  · exact exec_legal hs hb he

/-! ## The host -/

theorem reset_legal : Legal State.reset where
  memory := ⟨Memory.wf_nil, Memory.wf_nil, nofun, nofun⟩
  world := nofun
  image := nofun
  status := nofun
  running := nofun
  depth := nofun
  frames := nofun
  nesting := nofun

/-- 44_host_operations.md R171: an accepted image begins with a RETN and fits its space. -/
theorem installImage_legal {s : State} (hs : Legal s) {bytes : List Byte} (h : imageAccepted bytes = true) :
    Legal (installImage bytes s) := by
  obtain ⟨hpos, hmax, hhead⟩ := imageAccepted_iff.1 h
  have hlen : (installImage bytes s).imageLen.toNat = bytes.length := by
    rw [installImage_imageLen, BitVec.toNat_ofNat, Nat.mod_eq_of_lt (by omega)]
  have hread : (installImage bytes s).image.read 0 = plainHead .retn := by
    rw [installImage_image, Memory.read_ofBytes, List.getD_eq_getElem?_getD, ← List.head?_eq_getElem?, hhead]
    rfl
  obtain ⟨⟨hgwf, -, hgrid, -⟩, hworld, -, hstatus, hrunning, hdepth, hframes, hnesting⟩ := hs
  refine ⟨⟨hgwf, Memory.ofBytes_wf bytes, hgrid, fun c hc => ?_⟩, hworld, fun _ => ⟨hlen.symm ▸ hpos, hread⟩, hstatus,
    fun hb => ⟨rfl, (hrunning hb).2⟩, hdepth, hframes, hnesting⟩
  rw [hlen]
  simpa using (Memory.mem_ofBytesFrom hc).2

/-- 44_host_operations.md R173. -/
theorem installWorld_legal {s : State} (hs : Legal s) {cells : CellArray} {r : RobotRecord}
    (h : worldAccepted cells r = true) : Legal (installWorld cells r s) := by
  obtain ⟨⟨hgwf, hiwf, hgrid, himg⟩, -, himage, hstatus, hrunning, hdepth, hframes, hnesting⟩ := hs
  obtain ⟨hwf, hbound, -⟩ := importCells_spec cells hgwf
  exact ⟨⟨hwf, hiwf, hbound hgrid, himg⟩, fun _ => installWorld_worldLegal hgwf h, himage, hstatus,
    fun hb => ⟨(hrunning hb).1, rfl⟩, hdepth, hframes, hnesting⟩

/-- 44_host_operations.md R177: a run starts with nothing open. -/
theorem startRun_legal {s : State} (hs : Legal s) (entry : Pc) (hb : s.bytecodeValid = true)
    (hw : s.worldValid = true) : Legal (startRun entry s) where
  memory := hs.memory
  world := hs.world
  image := hs.image
  status := ⟨rfl, rfl⟩
  running _ := ⟨hb, hw⟩
  depth _ := rfl
  frames _ := fun _ hf => (List.not_mem_nil hf).elim
  nesting _ := fun _ => rfl

theorem hostMove_legal {s : State} (hs : Legal s) (op : HostOp) : Legal (hostMove op s) := by
  rcases hostMove_cases op s with ⟨-, e⟩ | ⟨bytes, -, h, e⟩ | ⟨cells, r, -, hc, hr, e⟩ | ⟨entry, -, hb, hw, e⟩ |
    ⟨-, e⟩ | ⟨u, r, hu, e⟩ | ⟨c, -, -, e⟩ <;> rw [e]
  · exact reset_legal.with_controls ..
  · exact installImage_legal hs h
  · have haccepted : worldAccepted cells r = true := by rw [worldAccepted, hc, hr]; rfl
    exact installWorld_legal hs haccepted
  · exact startRun_legal hs entry hb hw
  · exact hs.with_controls ..
  · rcases hu with rfl | rfl <;> exact hs.with_controls ..
  · exact raiseFault_legal hs c

theorem step_legal {s t : State} (hs : Legal s) (h : step s = .next t) : Legal t := by
  rcases step_next h with ⟨u, rfl | rfl, hturn⟩ | ⟨op, _, -, -, rfl⟩
  · exact interpreterTurn_legal hs hturn
  · exact interpreterTurn_legal (popAgenda_legal hs) hturn
  · exact hostMove_legal (popAgenda_legal hs) op

end Sys2Proof.Safety

namespace Sys2Proof.Machine

theorem hostMove_readStatus_of_written {s : State} (h : s.statusWritten = true) :
    hostMove .readStatus s = { s with reply := some (.status s.status) } := if_pos h

theorem hostMove_readStatus_of_not_written {s : State} (h : s.statusWritten = false) :
    hostMove .readStatus s =
      { s with reply := some (.status (Config.unwrittenStatus s.draws)), draws := s.draws + 1 } :=
  if_neg (by simp [h])

end Sys2Proof.Machine
end

section
/-! The statements about the machine's invariant (10_state.md section 9, 44_host_operations.md, 70_reset_and_hazards.md
section 1). -/
namespace Sys2Proof.Proofs
open Sys2Proof.Machine Sys2Proof.Safety

/-- Settles O37: by the mover; an instruction by its effects, a host operation by what it can do. -/
theorem legalStatesStayLegal : Obligations.LegalStatesStayLegal :=
  fun _ _ => step_legal

/-- Settles O38: nothing is loaded, open or written. -/
theorem resetIsLegal : Obligations.ResetIsLegal := reset_legal

/-- Settles O42: an accepted array imports legal cells, an instruction writes flag counts, and the cell ahead of a robot
on the grid is on it. -/
theorem worldStaysLegal : Obligations.WorldStaysLegal := by
  refine ⟨fun s cells r hg hload => ?_, fun s t i hg hs he => (exec_effect he).worldLegal hg hs, fun s hs => ?_⟩
  · have haccepted : worldAccepted cells r = true := worldAccepted_of_fault_eq_none hload
    have hinstall : hostLoadWorld cells r s = installWorld cells r s := hostMove_loadWorld_of_accepted haccepted
    rw [hinstall]
    exact installWorld_worldLegal hg haccepted
  · obtain ⟨hrobot, hahead⟩ := hs.accesses_inGrid
    exact ⟨⟨_, gridGet_of_inGrid _ hrobot⟩, fun x y hp => ⟨_, gridGet_of_inGrid _ (hahead x y hp)⟩⟩

/-- Settles O51: by whether the register has been written; the invariant says what it then holds. -/
theorem readStatusReturnsTheRegister : Obligations.ReadStatusReturnsTheRegister := by
  refine fun s => ⟨hostMove_readStatus_of_written, hostMove_readStatus_of_not_written, fun hs hb => ?_,
    fun hs hb hw => ⟨s.status, hs.status_of_idle hb hw, hostMove_readStatus_of_written hw⟩⟩
  obtain ⟨hwritten, hstatus⟩ := hs.status_of_busy hb
  rw [hostMove_readStatus_of_written hwritten, hstatus]
  rfl

end Sys2Proof.Proofs
end

section
/-! An interrupted run, in which every fetch is of the RETN at offset 0 (60_exceptions.md R207 to R211). -/
namespace Sys2Proof.Machine
open Sys2Proof.Safety

/-- An interrupted run with no host move to come. -/
structure MaskedRun (s : State) : Prop where
  image : ImageLegal s
  busy : s.busy = true
  unfaulted : s.fault = none
  agenda : s.agenda = []
  masked : s.shortMask = 0

section
variable {s : State} (hs : MaskedRun s)
include hs

theorem MaskedRun.step_eq : step s = exec .retn s := by
  rw [step_of_agenda_nil hs.agenda, interpreterTurn_of_masked hs.image hs.busy hs.unfaulted hs.masked]

/-- With no call open the run ends. -/
theorem MaskedRun.step_of_nil (h : s.callStack = []) : step s = .next (terminate .success s) := by
  rw [hs.step_eq, exec_retn_of_nil h]

/-- An open call is returned from, and the run goes on interrupted. -/
theorem MaskedRun.step_of_cons {ret : Pc} {rest : List Pc} (h : s.callStack = ret :: rest) :
    ∃ t, step s = .next t ∧ MaskedRun t ∧ t.callStack = rest ∧ t.curRepeat = s.curRepeat ∧
      t.repeatStack = s.repeatStack ∧ SameWorld s t := by
  have hnext : MaskedRun { s with pc := ret, callStack := rest, depth := s.depth - 1 } :=
    ⟨hs.image, hs.busy, hs.unfaulted, hs.agenda, hs.masked⟩
  exact ⟨_, hs.step_eq.trans (exec_retn_of_cons h), hnext, rfl, rfl, rfl, rfl, rfl, rfl, rfl, rfl, rfl⟩

end

theorem sameWorld_refl (s : State) : SameWorld s s := ⟨rfl, rfl, rfl, rfl, rfl, rfl⟩

theorem sameWorld_trans {s t u : State} (hst : SameWorld s t) (htu : SameWorld t u) : SameWorld s u := by
  obtain ⟨h1, h2, h3, h4, h5, h6⟩ := hst
  obtain ⟨k1, k2, k3, k4, k5, k6⟩ := htu
  exact ⟨k1.trans h1, k2.trans h2, k3.trans h3, k4.trans h4, k5.trans h5, k6.trans h6⟩

/-- While a call is open the run is in progress and the world as it was. -/
theorem MaskedRun.run_of_le {s : State} (hs : MaskedRun s) {j : Nat} (hj : j ≤ s.callStack.length) :
    ∃ u, core.run j s = .next u ∧ u.busy = true ∧ SameWorld s u := by
  induction j generalizing s with
  | zero => exact ⟨s, rfl, hs.busy, sameWorld_refl s⟩
  | succ j ih =>
    obtain ⟨ret, rest, hcalls⟩ := List.exists_cons_of_length_pos (Nat.zero_lt_of_lt hj)
    obtain ⟨t, hstep, ht, hrest, -, -, hworld⟩ := hs.step_of_cons hcalls
    rw [hcalls, List.length_cons, ← hrest] at hj
    obtain ⟨u, hrun, hbusy, hworld'⟩ := ih ht (Nat.le_of_succ_le_succ hj)
    exact ⟨u, (core_run_succ j hstep).trans hrun, hbusy, sameWorld_trans hworld hworld'⟩

/-- Past the last return the run ends, its repeat frames and the world as they were. -/
theorem MaskedRun.run_length_add_one {s : State} (hs : MaskedRun s) :
    ∃ t, core.run (s.callStack.length + 1) s = .next t ∧ t.status = 0 ∧ t.busy = false ∧ t.callStack = [] ∧
      t.curRepeat = s.curRepeat ∧ t.repeatStack = s.repeatStack ∧ SameWorld s t := by
  induction hcalls : s.callStack generalizing s with
  | nil => exact ⟨_, core_run_succ 0 (hs.step_of_nil hcalls), rfl, rfl, hcalls, rfl, rfl, sameWorld_refl s⟩
  | cons ret rest ih =>
    obtain ⟨t, hstep, ht, hrest, hcur, houter, hworld⟩ := hs.step_of_cons hcalls
    obtain ⟨u, hrun, hstatus, hbusy, hnil, hcur', houter', hworld'⟩ := ih ht hrest
    exact ⟨u, (core_run_succ _ hstep).trans hrun, hstatus, hbusy, hnil, hcur'.trans hcur, houter'.trans houter,
      sameWorld_trans hworld hworld'⟩

end Sys2Proof.Machine
end

section
/-! Between runs the execution state is read by no move (10_state.md R38). -/
namespace Sys2Proof.Machine
open Sys2Proof.Safety

theorem exists_eq_of_sameButExecution {s u : State} (h : SameButExecution s u) :
    ∃ pc calls outer cur depth,
      u = { s with pc := pc, callStack := calls, repeatStack := outer, curRepeat := cur, depth := depth } :=
  ⟨_, _, _, _, _, h⟩

theorem sameButExecution_ite {p : Prop} [Decidable p] {s t u v : State} (hp : SameButExecution s u)
    (hn : SameButExecution t v) : SameButExecution (if p then s else t) (if p then u else v) := by
  split
  · exact hp
  · exact hn

/-- No host operation reads the execution state: each makes the same choice in both states and writes the same. -/
theorem hostMove_sameButExecution (op : HostOp) {s u : State} (h : SameButExecution s u) :
    SameButExecution (hostMove op s) (hostMove op u) := by
  obtain ⟨pc, calls, outer, cur, depth, rfl⟩ := exists_eq_of_sameButExecution h
  cases op with
  | reset | shortCircuit => rfl
  | loadImage | loadWorld | run | readStatus | readWorld | readRobot => exact sameButExecution_ite rfl rfl

/-- 44_host_operations.md R177: the start of a run writes all of the execution state. -/
theorem hostMove_run_congr (entry : Pc) {s u : State} (h : SameButExecution s u) (hb : s.bytecodeValid = true)
    (hw : s.worldValid = true) : hostMove (.run entry) u = hostMove (.run entry) s := by
  obtain ⟨hbu, hwu, hstart⟩ : u.bytecodeValid = s.bytecodeValid ∧ u.worldValid = s.worldValid ∧
      startRun entry u = startRun entry s := by
    obtain ⟨pc, calls, outer, cur, depth, rfl⟩ := exists_eq_of_sameButExecution h
    exact ⟨rfl, rfl, rfl⟩
  rw [hostMove_run_of_valid entry hb hw, hostMove_run_of_valid entry (hbu.trans hb) (hwu.trans hw), hstart]

/-- 44_host_operations.md R177: an idle block becomes busy by an accepted HostRun alone. -/
theorem run_of_hostMove_busy {op : HostOp} {s : State} (hb : s.busy = false) (h : (hostMove op s).busy = true) :
    ∃ entry, op = .run entry ∧ s.bytecodeValid = true ∧ s.worldValid = true := by
  rcases hostMove_cases op s with ⟨-, e⟩ | ⟨_, -, -, e⟩ | ⟨_, _, -, -, -, e⟩ | ⟨entry, hop, hbv, hwv, -⟩ | ⟨-, e⟩ |
    ⟨u, _, hu, e⟩ | ⟨_, -, -, e⟩
  · rw [e] at h
    cases h
  · simp [e, hb] at h
  · simp [e, hb] at h
  · exact ⟨entry, hop, hbv, hwv⟩
  · simp [e, hb] at h
  · rcases hu with rfl | rfl <;> simp [e, hb] at h
  · simp [e, hb] at h

/-- Between runs every step is a host operation's. -/
theorem step_next_of_idle {s t : State} (hb : s.busy = false) (h : step s = .next t) :
    ∃ op rest, s.agenda = .host op :: rest ∧ hostEnabled op s = true ∧ t = hostMove op { s with agenda := rest } := by
  rcases step_next h with ⟨u, hu, hturn⟩ | ⟨op, rest, hagenda, henabled, rfl⟩
  · obtain ⟨-, hbusy, -⟩ := interpreterTurn_next hturn
    rcases hu with rfl | rfl <;> simp [popAgenda, hb] at hbusy
  · exact ⟨op, rest, hagenda, henabled, by simp [popAgenda, hagenda]⟩

end Sys2Proof.Machine
end

section
/-! The statements about an interrupted run and about what a run leaves behind (60_exceptions.md section 4, 10_state.md
section 6). -/
namespace Sys2Proof.Proofs
open Sys2Proof.Machine Sys2Proof.Safety

/-- Settles O29: by induction on the open calls, each returned from in one step. -/
theorem interruptedRunUnwindsInKPlusOneSteps : Obligations.InterruptedRunUnwindsInKPlusOneSteps := by
  intro s hi hb hf ha hm
  have hs : MaskedRun s := ⟨hi, hb, hf, ha, hm⟩
  exact ⟨fun _ hj => hs.run_of_le hj, hs.run_length_add_one⟩

/-- Settles O54: the same host operation is the step of both, reads nothing of the execution state and, where it starts
a run, writes all of it. -/
theorem nextRunForgetsTheLast : Obligations.NextRunForgetsTheLast := by
  intro s u t hb hsame hstep
  obtain ⟨op, rest, hagenda, henabled, rfl⟩ := step_next_of_idle hb hstep
  obtain ⟨pc, calls, outer, cur, depth, rfl⟩ := exists_eq_of_sameButExecution hsame
  refine ⟨_, step_of_hostEnabled hagenda ?_, hostMove_sameButExecution op rfl, fun hbusy => ?_⟩
  · rw [hostEnabled_iff] at henabled ⊢
    exact henabled
  · obtain ⟨entry, rfl, hbv, hwv⟩ := run_of_hostMove_busy (s := { s with agenda := rest }) hb hbusy
    exact hostMove_run_congr entry rfl hbv hwv

end Sys2Proof.Proofs
end

section
/-! A safe run: no instruction of it faults, and each leaves control at a reachable offset, the open loops counting down
and the robot on no wall (60_exceptions.md R206, 44_host_operations.md R172). -/
namespace Sys2Proof.Machine
open Sys2Proof.Safety

/-! ## What one instruction keeps -/

section
variable {s t : State} {i : Instr} (he : Effect s i t)
include he

/-- 60_exceptions.md R206: a well-formed instruction executed in a legal world, the robot on no wall, records no
fault. -/
theorem Effect.fault_eq_none (hworld : WorldLegal s) (hground : cellValue s.grid s.px.toNat s.py.toNat ≠ Config.wall)
    (hi : i.wellFormed = true) (hf : s.fault = none) : t.fault = none := by
  cases he with
  | notFlagcount _ _ hin hm =>
    obtain ⟨hcells, -⟩ := hworld
    rcases hcells _ _ hin with hle | hwall
    · exact absurd hm (Nat.not_lt.2 hle)
    · exact absurd hwall hground
  | repeatZero => cases hi
  | offGrid _ _ hout =>
    obtain ⟨hrobot, hahead⟩ := hworld.accesses_inGrid
    rcases hout with hn | ⟨x, y, hp, hn⟩
    · exact absurd hrobot hn
    · exact absurd (hahead x y hp) hn
  | calls _ _ hu | opens _ _ _ _ _ hu => simpa [hu.fault_eq] using hf
  | ends | growthFails | moves | turns | takes | adds | jumps | fallsThrough | returns | visits => simpa using hf

/-- The robot never comes to stand on a wall. -/
theorem Effect.ground (hg : s.grid.wf) (hground : cellValue s.grid s.px.toNat s.py.toNat ≠ Config.wall) :
    cellValue t.grid t.px.toNat t.py.toNat ≠ Config.wall := by
  rcases he.world_cases with ⟨hx, hy, hgrid⟩ | ⟨hgrid, -, hfree⟩ | ⟨hx, hy, hin, -, v, hv, hgrid⟩
  · rwa [hx, hy, hgrid]
  · rwa [hgrid]
  · rw [hx, hy, hgrid, cellValue_setCellValue hg hin hin, if_pos ⟨rfl, rfl⟩]
    exact ne_wall_of_le_maxFlags hv

/-- 43_repeat.md R162: an open frame never reaches the count of its REPEAT. A RETN opens none, wherever it was
fetched. -/
theorem Effect.framesCountDown (hd : i = .retn ∨ decodeAt s s.pc.toNat = .ok i) (hframes : FramesLegal s)
    (hs : FramesCountDown s) : FramesCountDown t := by
  obtain ⟨himage, hlen, -⟩ := he.imageKept
  intro g hg top count hdec
  rw [decodeAt_congr himage hlen] at hdec
  rcases he.mem_repeatFrames hg with hold | ⟨top', count', r, rfl, rfl, -, hr⟩
  · exact hs g hold top count hdec
  · have hcur : decodeAt s s.pc.toNat = .ok (.repeatLoop top' count') := hd.resolve_left nofun
    obtain rfl : count' = count := by
      rw [hcur] at hdec
      cases hdec
      rfl
    have hr0 : r ≠ 0 := by
      rcases hr with ⟨rfl, h0⟩ | hold
      · exact h0
      · exact hframes _ hold
    have hle : r.toNat ≤ count'.toNat := by
      rcases hr with ⟨rfl, -⟩ | hold
      · exact le_rfl
      · exact (hs _ hold top' count' hcur).le
    have hsub : (r - 1).toNat + 1 = r.toNat := count_sub_one hr0
    exact Nat.lt_of_succ_le (hsub.trans_le hle)

end

/-! ## Control -/

/-- A count above one that is not 0. -/
theorem count_ne_one_of_lt {r count : Count} (h0 : r ≠ 0) (hlt : r.toNat < count.toNat) : count ≠ 1 := by
  rintro rfl
  exact h0 (BitVec.eq_of_toNat_eq (Nat.lt_one_iff.1 hlt))

section
variable {s t : State} {i : Instr}

theorem visitLoop_mem_pcUpdates {top : Pc} {count : Count} {f : Frame} {calls : List Nat}
    (hfit : s.pc.toNat + 7 < 2 ^ 32) (hmore : f.remaining ≠ 1 → count ≠ 1) :
    ((visitLoop top f s).pc.toNat, calls) ∈ pcUpdates s.pc.toNat calls (.repeatLoop top count) := by
  rcases visitLoop_cases top f s with ⟨-, e⟩ | ⟨h1, e⟩ <;> rw [e]
  · rw [advance_pc, popRepeat_pc, pc_add_toNat hfit]
    exact finish_mem_pcUpdates _ _ _ _
  · exact goRound_mem_pcUpdates _ _ _ (hmore h1)

/-- 40_fetch_dispatch.md R111: where an instruction that completes takes control is one of its `pc` updates, and so are
the return offsets it leaves. -/
theorem Effect.mem_pcUpdates (he : Effect s i t) (hfit : s.pc.toNat + i.length < 2 ^ 32)
    (hvisit : ∀ top count f, i = .repeatLoop top count → s.curRepeat = some f → f.origin = s.pc → count ≠ 1)
    (hb : t.busy = true) (hf : t.fault = none) :
    (t.pc.toNat, t.callStack.map BitVec.toNat) ∈ pcUpdates s.pc.toNat (s.callStack.map BitVec.toNat) i := by
  cases he with
  | ends | growthFails => simp at hb
  | notFlagcount | repeatZero | offGrid => simp at hf
  | moves | turns | takes | adds =>
    have hpc : (s.pc + BitVec.ofNat 32 1).toNat = s.pc.toNat + 1 := pc_add_toNat hfit
    exact List.mem_singleton.2 (Prod.ext hpc rfl)
  | jumps cond inv target hc => exact branch_mem_pcUpdates _ _ target hc
  | fallsThrough cond inv target hc =>
    have hpc : (s.pc + BitVec.ofNat 32 5).toNat = s.pc.toNat + 5 := pc_add_toNat hfit
    rw [advance_pc, hpc]
    exact branch_mem_pcUpdates _ _ target hc
  | calls target u hu =>
    have hpc : (s.pc + BitVec.ofNat 32 5).toNat = s.pc.toNat + 5 := pc_add_toNat hfit
    have hcalls : ((u.pc + 5) :: u.callStack).map BitVec.toNat =
        (s.pc.toNat + 5) :: s.callStack.map BitVec.toNat := by
      rcases hu with rfl | rfl <;> exact congrArg (· :: _) hpc
    exact List.mem_singleton.2 (Prod.ext rfl hcalls)
  | returns ret rest hcalls => simp [pcUpdates, hcalls]
  | visits top count f hcur ho =>
    rw [visitLoop_callStack]
    exact visitLoop_mem_pcUpdates hfit fun _ => hvisit top count f rfl hcur ho
  | opens top count u _ _ hu =>
    rw [visitLoop_callStack]
    rcases hu with rfl | rfl <;> exact visitLoop_mem_pcUpdates hfit id

end

end Sys2Proof.Machine

namespace Sys2Proof.Safety
open Sys2Proof.Machine

section
variable {entry : Nat} {s t : State}

/-! ## The fetch -/

theorem SafeRun.worldLegal (hs : SafeRun entry s) (hb : s.busy = true) : WorldLegal s :=
  hs.legal.world (hs.legal.running hb).2

/-- 44_host_operations.md R172, 40_fetch_dispatch.md R107: a safe run fetches a well-formed instruction, the one at its
`pc` or the RETN at 0. -/
theorem SafeRun.exists_fetch (hs : SafeRun entry s) (hb : s.busy = true) :
    ∃ i, decodeAt s (fetchAddress s).toNat = .ok i ∧ i.wellFormed = true ∧
      (i = .retn ∨ decodeAt s s.pc.toNat = .ok i) := by
  obtain ⟨himage, -, hreach⟩ := hs.image
  have hmask : s.shortMask = 0 ∨ s.shortMask = 1 := by
    generalize s.shortMask = m
    revert m
    decide
  rcases hmask with h0 | h1
  · rw [fetchAddress_of_masked h0]
    exact ⟨.retn, decodeAt_zero himage, rfl, .inl rfl⟩
  · obtain ⟨i, hd, hi⟩ := hreach _ _ (hs.control hb h1)
    rw [fetchAddress_of_unmasked h1]
    exact ⟨i, hd, hi, .inr hd⟩

/-! ## The interpreter -/

/-- While the mask lets control through, an instruction of a safe run leaves it at a reachable offset. -/
theorem SafeRun.reachable_after (hs : SafeRun entry s) (hb : s.busy = true) (hm : s.shortMask = 1) {i : Instr}
    (hd : decodeAt s s.pc.toNat = .ok i) (he : Effect s i t) (hbt : t.busy = true) (hft : t.fault = none) :
    Reachable t entry t.pc.toNat (t.callStack.map BitVec.toNat) := by
  obtain ⟨himage, hlen, -⟩ := he.imageKept
  have hfit : s.pc.toNat + i.length < 2 ^ 32 := (decodeAt_length hd).trans_lt s.imageLen.isLt
  refine reachable_congr himage hlen (.follow _ _ _ _ i (hs.control hb hm) hd (he.mem_pcUpdates hfit ?_ hbt hft))
  rintro top count f rfl hcur ho
  have hopen : f ∈ repeatFrames s := by simp [repeatFrames_of_current hcur]
  exact count_ne_one_of_lt (hs.legal.frames hb f hopen) (hs.counting hb f hopen top count (ho ▸ hd))

/-- 60_exceptions.md R206: the interpreter's turn in a safe run has a next state, again of a safe run. -/
theorem SafeRun.interpreterTurn (hs : SafeRun entry s) (hb : s.busy = true) :
    ∃ t, Machine.interpreterTurn s = .next t ∧ SafeRun entry t := by
  obtain ⟨i, hfetch, hi, hd⟩ := hs.exists_fetch hb
  obtain ⟨t, hexec⟩ := exec_answers_next i s
  have hturn : Machine.interpreterTurn s = .next t :=
    (interpreterTurn_of_decodeAt_ok hb hs.unfaulted hfetch).trans hexec
  have he : Effect s i t := exec_effect hexec
  obtain ⟨himage, hlen, -⟩ := he.imageKept
  have hfault : t.fault = none := he.fault_eq_none (hs.worldLegal hb) hs.ground hi hs.unfaulted
  refine ⟨t, hturn, {
    legal := interpreterTurn_legal hs.legal hturn
    image := wellFormedImage_congr himage hlen hs.image
    control := fun hbt hm => ?_
    counting := fun _ => he.framesCountDown hd (hs.legal.frames hb) (hs.counting hb)
    ground := he.ground hs.legal.grid_wf hs.ground
    unfaulted := hfault }⟩
  have hunmasked : s.shortMask = 1 := he.controlsKept.shortMask ▸ hm
  rw [fetchAddress_of_unmasked hunmasked] at hfetch
  exact hs.reachable_after hb hunmasked hfetch he hbt hfault

/-! ## The host -/

/-- What a safe run is says nothing of the draws, the agenda and the reply, and of the mask only that it masks
control. -/
theorem SafeRun.with_controls (hs : SafeRun entry s) {mask : BitVec 1} (hm : mask = s.shortMask ∨ mask = 0)
    (draws : Nat) (agenda : List Turn) (reply : Option HostReply) :
    SafeRun entry { s with shortMask := mask, draws := draws, agenda := agenda, reply := reply } where
  legal := hs.legal.with_controls mask s.fault draws agenda reply
  image := wellFormedImage_congr (by rfl) (by rfl) hs.image
  control hb h1 := by
    rcases hm with rfl | rfl
    · exact reachable_congr (by rfl) (by rfl) (hs.control hb h1)
    · cases h1
  counting := hs.counting
  ground := hs.ground
  unfaulted := hs.unfaulted

/-- 44_host_operations.md R170: of the operations enabled in a run reset alone ends its safety. -/
theorem SafeRun.hostMove (hs : SafeRun entry s) {op : HostOp} (hop : op = .shortCircuit ∨ op = .readStatus) :
    SafeRun entry (Machine.hostMove op s) := by
  rcases hop with rfl | rfl
  · exact hs.with_controls (.inr rfl) ..
  · obtain ⟨u, r, rfl | rfl, e⟩ := hostMove_readStatus_cases s <;> rw [e] <;> exact hs.with_controls (.inl rfl) ..

/-- 60_exceptions.md R206: a step of a safe run, short of a reset, has a next state, again of a safe run. -/
theorem SafeRun.step (hs : SafeRun entry s) (hb : s.busy = true) (hreset : ∀ rest, s.agenda ≠ .host .reset :: rest) :
    ∃ t, Machine.step s = .next t ∧ SafeRun entry t := by
  cases ha : s.agenda with
  | nil =>
    rw [step_of_agenda_nil ha]
    exact hs.interpreterTurn hb
  | cons turn rest =>
    cases turn with
    | interpreter =>
      rw [step_of_interpreter_first ha]
      exact (hs.with_controls (.inl rfl) s.draws rest s.reply).interpreterTurn hb
    | host op =>
      cases hen : hostEnabled op s with
      | false =>
        rw [step_of_not_hostEnabled ha hen]
        exact hs.interpreterTurn hb
      | true =>
        have hop : op = .shortCircuit ∨ op = .readStatus := by
          rcases hostEnabled_iff.1 hen with (rfl | hop) | ⟨hidle, -⟩
          · exact absurd ha (hreset rest)
          · exact hop
          · simp [hb] at hidle
        rw [step_of_hostEnabled ha hen]
        exact ⟨_, rfl, (hs.with_controls (.inl rfl) s.draws rest s.reply).hostMove hop⟩

end

/-- 44_host_operations.md R177: a run begins at a reachable offset, with nothing open. -/
theorem startRun_safeRun {s : State} (hs : Legal s) (entry : Pc) (hf : s.fault = none) (hb : s.bytecodeValid = true)
    (hw : s.worldValid = true) (hi : WellFormedImage s entry.toNat)
    (hground : cellValue s.grid s.px.toNat s.py.toNat ≠ Config.wall) : SafeRun entry.toNat (startRun entry s) where
  legal := startRun_legal hs entry hb hw
  image := wellFormedImage_congr (by rfl) (by rfl) hi
  control _ _ := .start
  counting _ := fun _ hg => (List.not_mem_nil hg).elim
  ground := hground
  unfaulted := hf

end Sys2Proof.Safety
end

section
/-! The statement about safe runs (60_exceptions.md section 3). -/
namespace Sys2Proof.Proofs
open Sys2Proof.Machine Sys2Proof.Safety

/-- Settles O43: `SafeRun` holds at the start of such a run, and each move of either agent short of a reset keeps it. -/
theorem safeRunNeverFaults : Obligations.SafeRunNeverFaults := by
  refine ⟨fun s entry hs _ hf hb hw hi hground => ?_, fun s entry hs hb hreset => ?_⟩
  · have hrun : hostRun entry s = startRun entry s := hostMove_run_of_valid entry hb hw
    rw [hrun]
    exact startRun_safeRun hs entry hf hb hw hi hground
  · obtain ⟨t, hstep, ht⟩ := hs.step hb hreset
    exact ⟨t, hstep, ht.unfaulted, ht⟩

end Sys2Proof.Proofs
end
